-- ==== Sys2Proof/Word.lean ====
section
/-! DEFINITION. The bit-vector types of the block: the 16-bit command word (30_encoding.md R90), the 8-bit
element of the queue, the planes and the checksum (10_state.md R25, R30, R31) and the 10-bit sample (R33). -/

namespace Sys2Proof

/-- A command word (R90). -/
abbrev Word := BitVec 16

/-- One byte: the data operand `D` (R93) and every element of QMEM and PLANE (R65). -/
abbrev Byte := BitVec 8

/-- One raw reading of the sampler: `SAMPLE` (R94) and every element of WIN (R33). -/
abbrev Sample := BitVec 10

/-- The index operand `A` (R92). -/
abbrev Index := BitVec 4

end Sys2Proof
end

