-- ==== Sys2Proof/Syntax.lean ====
section
/-! DEFINITION. The commands of the block, one constructor for each row of spec/opcode_table.json
(30_encoding.md R95), the ports they arrive on (10_state.md R20) and the agents that step (R22). -/

namespace Sys2Proof

/-- The three command input ports (R20). -/
inductive Port where
  /-- driven by the serial-receive interrupt context: the producer of the queue -/
  | p
  /-- driven by the main loop: the consumer of the queue, the checksum and the display -/
  | m
  /-- driven by the sampler-conversion-complete interrupt context -/
  | s
deriving DecidableEq, Repr, Inhabited

/-- The agents of the block (R22). -/
inductive Agent where
  /-- `AG_P`, `AG_M`, `AG_S`: executes the command at the head of its port's stream -/
  | port (q : Port)
  /-- `AG_SYNC_W`: carries the write pointer into the consumer's view (R125) -/
  | syncW
  /-- `AG_SYNC_R`: carries the read pointer into the producer's view (R126) -/
  | syncR
  /-- `AG_RESET`: the reset input (R250) -/
  | reset
deriving DecidableEq, Repr, Inhabited

/-- The commands (R95). An operand is kept as the bits of its field: the commands' own rules check its value
(R92), and a zero field is no operand, since the decoder rejects a word in which one is not zero (R98). -/
inductive Instr where
  /-- `Q_APPEND #d` (R120) -/
  | qAppend (d : Byte)
  /-- `Q_POP` (R122) -/
  | qPop
  /-- `Q_IS_EMPTY` (R123) -/
  | qIsEmpty
  /-- `CK_RESET` (R150) -/
  | ckReset
  /-- `CK_UPDATE #d` (R151) -/
  | ckUpdate (d : Byte)
  /-- `CK_READ` (R152) -/
  | ckRead
  /-- `TP_SET_DIGIT i, #m` (R170) -/
  | tpSetDigit (i : Index) (m : Byte)
  /-- `TP_SET_DIGIT_BCD i, #v` (R171) -/
  | tpSetDigitBcd (i : Index) (v : Byte)
  /-- `TP_CLEAR` (R175) -/
  | tpClear
  /-- `TP_FLUSH` (R173) -/
  | tpFlush
  /-- `TP_INIT` (R174) -/
  | tpInit
  /-- `TP_SHOW_NO_SIGNAL #t` (R176) -/
  | tpShowNoSignal (t : Byte)
  /-- `MA_SAMPLE #r` (R200) -/
  | maSample (r : Sample)
  /-- reserved opcode 0xD, whose other bits are ignored (R100, R221) -/
  | reservedD (rest : BitVec 12)
  /-- reserved opcode 0xE (R100, R221) -/
  | reservedE (rest : BitVec 12)
  /-- reserved opcode 0xF (R100, R221) -/
  | reservedF (rest : BitVec 12)
deriving DecidableEq, Repr

end Sys2Proof
end

