-- ==== Sys2Proof/Config.lean ====
section
/-! DEFINITION. The implementation parameters of 00_scope.md R5, the values the spec's test vectors use for the
open ones, and the free values of the model: the host's endless streams and the order of the agents. What makes a parameter set legal (R6) stands in
Machine/Parameters.lean. -/

namespace Sys2Proof

/-- `SYNC_MODE`: how the two queue ports learn each other's pointer (R5, R121, R125). -/
inductive SyncMode where
  | gray
  | direct
deriving DecidableEq, Repr, Inhabited

/-- The parameters of R5 (R39: fixed for the life of the block). A state carries its parameters, so that a
statement about every state holds for every parameter set; nothing writes them. DESIGN CHOICE, log entry 2. `N` is
`Config.capacity`. Where the rules themselves fix a parameter's value, a set with another is not legal (log entry
3). -/
structure Config where
  /-- `QAW`, the queue address width; the capacity is `2 ^ QAW` (OPEN) -/
  qaw : Nat
  /-- `QDW`, the queue data width -/
  qdw : Nat
  /-- `SYNC_MODE` -/
  syncMode : SyncMode
  /-- `SYNC_STAGES`: timing only, no rule depends on it -/
  syncStages : Nat
  /-- `D`, the number of logical digits -/
  digits : Nat
  /-- `NPLANES`, the number of segment planes -/
  nplanes : Nat
  /-- `PERM`: entry `i - 1` is the physical bit position of logical digit `i` (OPEN) -/
  perm : List (Fin 8)
  /-- `BCD`, the segment pattern table (R172) -/
  bcd : List Byte
  /-- `W`, the length of the sample window -/
  w : Nat
  /-- `SW`, the width of a sample -/
  sw : Nat
  /-- `SUMW`, the width of the running sum -/
  sumw : Nat
  /-- `IDIV`, the intensity divisor -/
  idiv : Nat
  /-- `DRV_DECODE_ADDR` and the data byte `DRV_DECODE_OFF` (OPEN) -/
  drvDecodeAddr : Byte
  drvDecodeOff : Byte
  /-- `DRV_SCANLIMIT_ADDR` and `DRV_SCANLIMIT_DATA` (OPEN; 90_conflicts.md C6) -/
  drvScanlimitAddr : Byte
  drvScanlimitData : Byte
  /-- `DRV_TEST_ADDR` and `DRV_TEST_OFF` (OPEN) -/
  drvTestAddr : Byte
  drvTestOff : Byte
  /-- `DRV_SHUTDOWN_ADDR` and `DRV_SHUTDOWN_OFF` (OPEN) -/
  drvShutdownAddr : Byte
  drvShutdownOff : Byte
  /-- `DRV_INTENSITY_ADDR` (OPEN) -/
  drvIntensityAddr : Byte
deriving DecidableEq, Repr

/-- The `BCD` table (42_plane_transposer.md R172): the patterns of 0 to 9, then minus, E, H, L, P and blank. Codes 10
to 15 and their patterns are the spec's own decisions D12 and D13 (log entry 14). -/
def Config.bcdTable : List Byte :=
  [0x3F, 0x06, 0x5B, 0x4F, 0x66, 0x6D, 0x7D, 0x07, 0x7F, 0x6F, 0x40, 0x79, 0x76, 0x38, 0x73, 0x00]

/-- The parameter set of the spec's test vectors (R5, 95_test_vectors.md): `QAW` = 2, `PERM_T(i) = i - 1` and
the driver's test defaults. DESIGN CHOICE, log entry 1: the open parameters have no value in any source. -/
def Config.testVectors : Config where
  qaw := 2
  qdw := 8
  syncMode := .gray
  syncStages := 2
  digits := 6
  nplanes := 8
  perm := [0, 1, 2, 3, 4, 5]
  bcd := Config.bcdTable
  w := 16
  sw := 10
  sumw := 14
  idiv := 64
  drvDecodeAddr := 0x09
  drvDecodeOff := 0x00
  drvScanlimitAddr := 0x0B
  drvScanlimitData := 0x07
  drvTestAddr := 0x0F
  drvTestOff := 0x00
  drvShutdownAddr := 0x0C
  drvShutdownOff := 0x01
  drvIntensityAddr := 0x0A

/-- A FREE VALUE: the agents that step, when the schedule is used up, before the next fair turn (R22: any
interleaving; 93 item 20: any value). It is applied to the number of the round. Log entry 4. -/
opaque Config.freeTurns : Nat → List Agent

/-- A FREE VALUE: the words of the host's endless streams (10_state.md R24), by the number of the stream and the
place in it. Log entry 6. -/
opaque Config.hostWord : Nat → Nat → Word

end Sys2Proof
end

