-- ==== Sys2Proof/WellFormed.lean ====
section
/-! DEFINITION. Which commands have legal operands: those for which the command's own rule raises no fault
(42_plane_transposer.md R170, R171; 60_exceptions.md R221, R224). The decoder yields the others too (R92): their
meaning is to take the fault. -/

namespace Sys2Proof

/-- The logical digit indices 1..D (R92). -/
def Index.legalDigit (c : Config) (i : Index) : Bool := 1 ≤ i.toNat && i.toNat ≤ c.digits

/-- A BCD operand has `v[6:4] = 0` (R171). -/
def Byte.legalBcd (v : Byte) : Bool := v.extractLsb' 4 3 == 0#3

/-- The command is no reserved opcode (R221) and its operands are legal (R224), in a block with parameters `c`. -/
def Instr.wellFormed (c : Config) : Instr → Bool
  | .qAppend _ => true
  | .qPop => true
  | .qIsEmpty => true
  | .ckReset => true
  | .ckUpdate _ => true
  | .ckRead => true
  | .tpSetDigit i _ => Index.legalDigit c i
  | .tpSetDigitBcd i v => Index.legalDigit c i && Byte.legalBcd v
  | .tpClear => true
  | .tpFlush => true
  | .tpInit => true
  | .tpShowNoSignal _ => true
  | .maSample _ => true
  | .reservedD _ => false
  | .reservedE _ => false
  | .reservedF _ => false

end Sys2Proof
end

