-- ==== Sys2Proof/Decode.lean ====
section
/-! DEFINITION. The fields of a command word (30_encoding.md R91–R94), the opcode map (R95), the decoder, total on
every 16-bit word, and the encoder. A port takes a word as one unit, so no byte order arises (20_memory.md R68). -/

namespace Sys2Proof

/-- `OP = word[15:12]` (R91). -/
def fieldOp (w : Word) : BitVec 4 := w.extractLsb' 12 4

/-- `A = word[11:8]` (R92). -/
def fieldA (w : Word) : Index := w.extractLsb' 8 4

/-- `D = word[7:0]` (R93). -/
def fieldD (w : Word) : Byte := w.extractLsb' 0 8

/-- `SAMPLE = word[9:0]` (R94). -/
def fieldSample (w : Word) : Sample := w.extractLsb' 0 10

/-- The bits a reserved opcode ignores (R95). -/
def fieldRest (w : Word) : BitVec 12 := w.extractLsb' 0 12

/-- The ports that may issue an opcode (R95, R97). A reserved opcode faults on any port with ILLEGAL_OPCODE, which
comes before the port check (R99), so no port is wrong for it. -/
def opcodePorts (op : BitVec 4) : List Port :=
  match op.toNat with
  | 0x0 => [.p]
  | 0x2 => [.p, .m]
  | 0xC => [.s]
  | 0xD => [.p, .m, .s]
  | 0xE => [.p, .m, .s]
  | 0xF => [.p, .m, .s]
  | _ => [.m]

/-- The bits that must be 0 in a word of an opcode: its zero fields (R95, R98). -/
def zeroMask (op : BitVec 4) : Word :=
  match op.toNat with
  | 0x0 => 0x0F00
  | 0x4 => 0x0F00
  | 0x6 => 0x0000
  | 0x7 => 0x0000
  | 0xB => 0x0F00
  | 0xC => 0x0C00
  | 0xD => 0x0000
  | 0xE => 0x0000
  | 0xF => 0x0000
  | _ => 0x0FFF

/-- Why the decoder rejects a word. -/
inductive DecodeError where
  /-- a zero field of the opcode's row is not zero: the word matches no row of R95 and faults (R98) -/
  | reservedField (op : BitVec 4)
deriving DecidableEq, Repr

/-- The command an opcode stands for, its operands taken from the word (R95, R99). -/
def instrOf (w : Word) : Instr :=
  match (fieldOp w).toNat with
  | 0x0 => .qAppend (fieldD w)
  | 0x1 => .qPop
  | 0x2 => .qIsEmpty
  | 0x3 => .ckReset
  | 0x4 => .ckUpdate (fieldD w)
  | 0x5 => .ckRead
  | 0x6 => .tpSetDigit (fieldA w) (fieldD w)
  | 0x7 => .tpSetDigitBcd (fieldA w) (fieldD w)
  | 0x8 => .tpClear
  | 0x9 => .tpFlush
  | 0xA => .tpInit
  | 0xB => .tpShowNoSignal (fieldD w)
  | 0xC => .maSample (fieldSample w)
  | 0xD => .reservedD (fieldRest w)
  | 0xE => .reservedE (fieldRest w)
  | _ => .reservedF (fieldRest w)

/-- The decoder: every word either is one row's command or has a zero field that is not zero (R95). -/
def decode (w : Word) : Except DecodeError Instr :=
  if w &&& zeroMask (fieldOp w) = 0#16 then .ok (instrOf w) else .error (.reservedField (fieldOp w))

/-- The command word of a command: `{OP, A, D}` with the zero fields 0, and `{0xC, 0b00, r}` for MA_SAMPLE
(R91, R101). -/
def encode : Instr → Word
  | .qAppend d => 0x0#4 ++ 0#4 ++ d
  | .qPop => 0x1000#16
  | .qIsEmpty => 0x2000#16
  | .ckReset => 0x3000#16
  | .ckUpdate d => 0x4#4 ++ 0#4 ++ d
  | .ckRead => 0x5000#16
  | .tpSetDigit i m => 0x6#4 ++ i ++ m
  | .tpSetDigitBcd i v => 0x7#4 ++ i ++ v
  | .tpClear => 0x8000#16
  | .tpFlush => 0x9000#16
  | .tpInit => 0xA000#16
  | .tpShowNoSignal t => 0xB#4 ++ 0#4 ++ t
  | .maSample r => 0xC#4 ++ 0#2 ++ r
  | .reservedD rest => 0xD#4 ++ rest
  | .reservedE rest => 0xE#4 ++ rest
  | .reservedF rest => 0xF#4 ++ rest

/-- One row of the opcode map: a word selects the row whose `(word AND mask) = match` (R95). -/
structure Row where
  mnemonic : String
  pattern : Word
  mask : Word
  ports : List Port
deriving DecidableEq, Repr

/-- The word selects the row (R95). -/
def Row.selects (r : Row) (w : Word) : Bool := w &&& r.mask == r.pattern

/-- The opcode map as R95 prints it. -/
def opcodeMap : List Row :=
  [⟨"Q_APPEND", 0x0000, 0xFF00, [.p]⟩, ⟨"Q_POP", 0x1000, 0xFFFF, [.m]⟩,
   ⟨"Q_IS_EMPTY", 0x2000, 0xFFFF, [.p, .m]⟩, ⟨"CK_RESET", 0x3000, 0xFFFF, [.m]⟩,
   ⟨"CK_UPDATE", 0x4000, 0xFF00, [.m]⟩, ⟨"CK_READ", 0x5000, 0xFFFF, [.m]⟩,
   ⟨"TP_SET_DIGIT", 0x6000, 0xF000, [.m]⟩, ⟨"TP_SET_DIGIT_BCD", 0x7000, 0xF000, [.m]⟩] ++
  [⟨"TP_CLEAR", 0x8000, 0xFFFF, [.m]⟩, ⟨"TP_FLUSH", 0x9000, 0xFFFF, [.m]⟩,
   ⟨"TP_INIT", 0xA000, 0xFFFF, [.m]⟩, ⟨"TP_SHOW_NO_SIGNAL", 0xB000, 0xFF00, [.m]⟩,
   ⟨"MA_SAMPLE", 0xC000, 0xFC00, [.s]⟩, ⟨"RESERVED_0xD", 0xD000, 0xF000, [.p, .m, .s]⟩,
   ⟨"RESERVED_0xE", 0xE000, 0xF000, [.p, .m, .s]⟩, ⟨"RESERVED_0xF", 0xF000, 0xF000, [.p, .m, .s]⟩]

/-- The row a command belongs to, by its place in the map. -/
def Instr.mnemonic : Instr → String
  | .qAppend _ => "Q_APPEND"
  | .qPop => "Q_POP"
  | .qIsEmpty => "Q_IS_EMPTY"
  | .ckReset => "CK_RESET"
  | .ckUpdate _ => "CK_UPDATE"
  | .ckRead => "CK_READ"
  | .tpSetDigit _ _ => "TP_SET_DIGIT"
  | .tpSetDigitBcd _ _ => "TP_SET_DIGIT_BCD"
  | .tpClear => "TP_CLEAR"
  | .tpFlush => "TP_FLUSH"
  | .tpInit => "TP_INIT"
  | .tpShowNoSignal _ => "TP_SHOW_NO_SIGNAL"
  | .maSample _ => "MA_SAMPLE"
  | .reservedD _ => "RESERVED_0xD"
  | .reservedE _ => "RESERVED_0xE"
  | .reservedF _ => "RESERVED_0xF"

/-- The word whose low `nbits` bits are `w`, the rest 0, as the decoder and the fetch take it. -/
def tableWord (nbits w : Nat) : Word := BitVec.ofNat 16 (w % 2 ^ nbits)

/-- The command the decoder reads from a word numbered as spec/opcode_table.json numbers its bits. -/
def decodeTableWord (nbits w : Nat) : Option Instr :=
  match decode (tableWord nbits w) with
  | .ok i => some i
  | .error _ => none

end Sys2Proof
end

