-- ==== Sys2Proof/Machine/State.lean ====
section
/-! DEFINITION. Everything the block holds (10_state.md R25–R41), the model's history (R40), the host's command
streams and schedule (R24, R102), the reasons a step can stop, and the state after reset (R41, 70 R250). -/

namespace Sys2Proof.Machine

/-- The causes of the block's own fault (60_exceptions.md R220). A command that raises one TAKES it: the next state
holds the cause, the port and the word (R226); it is no stop of the model. -/
inductive FaultCause where
  | illegalOpcode
  | wrongPort
  | reservedField
  | badDigitIndex
  | badBcdValue
deriving DecidableEq, Repr

/-- Where the machine stops with a fault of the model. -/
inductive Fault where
  /-- Raised by `Q_POP` when it reads a queue slot that holds no value (10_state.md R25, 93 item 5). No execution
  from reset reaches it (40_byte_queue.md R131). Safe: the hardware would go on. Log entry 9. -/
  | unwrittenQueueSlot (slot : Nat)
deriving DecidableEq, Repr

/-- Where the model gives no behaviour. -/
inductive Refusal where
  /-- An instruction whose meaning is not written yet; raised by no arm of `exec` now. Safe. -/
  | notModelled (mnemonic : String)
  /-- Raised by every command and every agent when the parameter set breaks 00_scope.md R6 (`Config.legal`): "A model
  must refuse a parameter set that breaks any of" its conditions. Safe. Log entry 2. -/
  | illegalParameters
deriving DecidableEq, Repr

/-- The kinds of command that emit (R173, R174, R200). -/
inductive Sender where
  /-- `TP_FLUSH` -/
  | flush
  /-- `TP_INIT` -/
  | init
  /-- `MA_SAMPLE` -/
  | sample
deriving DecidableEq, Repr

/-- One entry of the output history `OUT` (R21, R40). -/
inductive OutEvent where
  /-- one display-driver command, an (address, data) pair (R69); beside it the model notes which command sent it, for
  what 70_reset_and_hazards.md R254 asks (log entry 21) -/
  | pair (sender : Sender) (addr data : Byte)
  /-- a reset (R40) -/
  | resetMark
deriving DecidableEq, Repr

/-- One entry of the response histories `RESP_P` and `RESP_M` (R40), each value at its command's width. -/
inductive Response where
  /-- a byte, from `Q_POP` (R122) -/
  | byte (v : Byte)
  /-- one bit, from `Q_IS_EMPTY` (R123) -/
  | bit (v : BitVec 1)
  /-- 16 bits, from `CK_READ` (R152) -/
  | word (v : BitVec 16)
  /-- a reset (R40) -/
  | resetMark
deriving DecidableEq, Repr

/-- A place in an endless stream of the host: the stream's number and the word that comes next. -/
structure Endless where
  source : Nat
  next : Nat
deriving DecidableEq, Repr

/-- What a port has still to take, "a finite or infinite sequence supplied by the host" (R24): the words that are
written out, head first, and then nothing, or an endless stream of the host's, whose words are free values (log entry
6). -/
structure CommandStream where
  words : List Word
  endless : Option Endless
deriving DecidableEq, Repr

/-- The stream of these words and no more. -/
def CommandStream.finite (ws : List Word) : CommandStream := ⟨ws, none⟩

/-- The state of the block. -/
structure State where
  /-- the parameters (R5, R39); written by nothing -/
  cfg : Config
  /-- `QMEM`: the slots that hold a value, as (slot, byte) in rising order (R25; canonical form `Memory.wf`) -/
  qmem : List Host.Cell
  /-- `WPTR`, counting modulo 2N (R26) -/
  wptr : Nat
  /-- `RPTR`, counting modulo 2N (R27) -/
  rptr : Nat
  /-- `WQ_SYNC`, in Gray code (R28) -/
  wqSync : Nat
  /-- `RQ_SYNC`, in Gray code (R29) -/
  rqSync : Nat
  /-- `CK_A` (R30) -/
  ckA : Byte
  /-- `CK_B` (R30) -/
  ckB : Byte
  /-- `PLANE[0..7]` (R31) -/
  plane : Vector Byte 8
  /-- `WIN[0..W-1]` (R33) -/
  win : List Sample
  /-- `SUM` (R34) -/
  sum : Nat
  /-- `WIDX` (R35) -/
  widx : Nat
  /-- `FAULT_CAUSE` (R36) -/
  faultCause : BitVec 3
  /-- `FAULT_PORT` (R37) -/
  faultPort : BitVec 2
  /-- `FAULT_WORD` (R37) -/
  faultWord : Word
  /-- `OUT`, oldest first (R40) -/
  out : List OutEvent
  /-- `RESP_P`, oldest first (R40) -/
  respP : List Response
  /-- `RESP_M`, oldest first (R40) -/
  respM : List Response
  /-- what port P has still to take (R23, R24) -/
  streamP : CommandStream
  /-- what port M has still to take -/
  streamM : CommandStream
  /-- what port S has still to take -/
  streamS : CommandStream
  /-- the agents that step next, in order (R102) -/
  schedule : List Agent
  /-- the model's own: the port whose agent is executing (log entry 7) -/
  port : Port
  /-- the model's own: rounds of turns begun since the schedule was used up, to which the free value is applied (log
  entry 4) -/
  round : Nat
deriving DecidableEq, Repr

/-- The block with parameters `c` right after reset: every hardware element at the value of R41, no history, no
program (log entries 6, 12). -/
def State.resetWith (c : Config) : State where
  cfg := c
  qmem := []
  wptr := 0
  rptr := 0
  wqSync := 0
  rqSync := 0
  ckA := 0
  ckB := 0
  plane := #v[0, 0, 0, 0, 0, 0, 0, 0]
  win := List.replicate c.w 0
  sum := 0
  widx := 0
  faultCause := 0
  faultPort := 0
  faultWord := 0
  out := []
  respP := []
  respM := []
  streamP := .finite []
  streamM := .finite []
  streamS := .finite []
  schedule := []
  port := .p
  round := 0

/-- The machine right after reset (R41, R250), with the test vectors' parameters (log entry 1). -/
def State.reset : State := State.resetWith Config.testVectors

end Sys2Proof.Machine
end

