-- ==== Sys2Proof/Machine/Parameters.lean ====
section
/-! DEFINITION. What the rules read from the parameters: the queue's capacity (00_scope.md R5), `PERM` (10_state.md
R32) and the legality of a parameter set (R6). -/

namespace Sys2Proof

/-- `N = 2 ^ QAW`, the capacity of the queue in bytes (R5). -/
def Config.capacity (c : Config) : Nat := 2 ^ c.qaw

/-- `2N`, the size of the circle the pointers run round (R26). -/
def Config.ringSize (c : Config) : Nat := 2 * c.capacity

/-- `PERM(i)`, the physical bit position of logical digit `i` in 1..D (R32). Outside 1..D, which no legal command
reaches (R170, R176), it reads 0. -/
def Config.permAt (c : Config) (i : Nat) : Fin 8 := c.perm.getD (i - 1) 0

/-- `W` is a power of two with `W ≥ 1` (R6). -/
def Config.windowIsPowerOfTwo (c : Config) : Bool := 2 ^ Nat.log2 c.w == c.w

/-- The values that the rules fix: `QDW` = 8 (10_state.md R25), `NPLANES` = 8 (R31), `BCD` the table of R172 (R32),
and `SW` no less than the 10 bits of `SAMPLE` (30_encoding.md R94). Log entry 3. -/
def Config.fixedValues (c : Config) : Bool :=
  c.qdw == 8 && c.nplanes == 8 && c.bcd == Config.bcdTable && 10 ≤ c.sw

/-- The legality of a parameter set (R6): `QAW ≥ 1`; `PERM` injective from 1..D into 0..7; `W` a power of two;
every intensity fits 16 steps; `SUMW ≥ SW + log2(W)`; and the values the rules fix. That `IDIV` and `D` are not 0 is
the model's addition, without which R200's division and R176's remainder have no result (log entry 2). -/
def Config.legal (c : Config) : Bool :=
  1 ≤ c.qaw &&
  (1 ≤ c.digits && c.perm.length == c.digits && decide c.perm.Nodup) &&
  c.windowIsPowerOfTwo &&
  (1 ≤ c.idiv && (2 ^ c.sw - 1) / c.idiv ≤ 15) &&
  c.sw + Nat.log2 c.w ≤ c.sumw &&
  c.fixedValues

end Sys2Proof
end

