-- ==== Sys2Proof/Machine/Ops.lean ====
section
/-! DEFINITION. The named operations: the queue storage (20_memory.md R60, R65), the Gray code (40_byte_queue.md
R124), bit writes (R65), the primitives `emit`, `respond`, `hold`, `raise` (00_scope.md R10), a stream's advance
(10_state.md R24), fault entry (60_exceptions.md R226), acceptance of a command (30_encoding.md R99) and reset
(70 R250). -/

namespace Sys2Proof.Machine

/-! Storage of cells: `MemRead(S, a, 1)` and `MemWrite(S, a, 1, v)` on QMEM (R10). -/

/-- The canonical form: addresses strictly rising. An unlisted address holds no value (R25), so no listed entry can
equal what an unlisted address reads as. -/
abbrev Memory.wf (m : List Host.Cell) : Prop := m.Pairwise fun x y => x.1 < y.1

/-- The element at an address, `none` where nothing has been written (R25). -/
def memRead : List Host.Cell → Nat → Option Byte
  | [], _ => none
  | (b, x) :: rest, a => if a = b then some x else memRead rest a

/-- One element written, keeping the canonical form. -/
def memWrite (a : Nat) (v : Byte) : List Host.Cell → List Host.Cell
  | [] => [(a, v)]
  | (b, x) :: rest =>
    if a < b then (a, v) :: (b, x) :: rest
    else if a = b then (a, v) :: rest
    else (b, x) :: memWrite a v rest

/-! The Gray code (R124), on values of `QAW + 1` bits. -/

/-- `gray(b) = b XOR (b >> 1)` (R124). -/
def gray (b : Nat) : Nat := b ^^^ (b >>> 1)

/-- `bin(g)` of an `n`-bit code, from the top bit down: `bin(g)[i] = bin(g)[i+1] XOR g[i]` (R124). The upper bits
of the result are `bin` of the upper bits of the code. -/
def bin : Nat → Nat → Nat
  | 0, _ => 0
  | n + 1, g => 2 * bin n (g >>> 1) + ((bin n (g >>> 1) % 2) ^^^ (g % 2))

/-- `(a + 1) mod m` on a pointer circle (R120, R122) or a window index (R200). -/
def ringNext (m a : Nat) : Nat := (a + 1) % m

/-- `(a - b) mod m` for values below `m` (R42, R120). -/
def ringSub (m a b : Nat) : Nat := (a + (m - b)) % m

/-! Bits of a plane. -/

/-- `PLANE[k][p] <- b`: one bit written, the other seven kept (R65, R170). -/
def setBit (v : Byte) (p : Fin 8) (b : Bool) : Byte :=
  (v &&& ~~~(1#8 <<< p.val)) ||| (if b then 1#8 <<< p.val else 0#8)

/-- The eight planes given by a rule for each. -/
def planesOf (f : Fin 8 → Byte) : Vector Byte 8 := #v[f 0, f 1, f 2, f 3, f 4, f 5, f 6, f 7]

/-- `for k in 0..7: PLANE[k][p] <- m[k]` (R170): the column of one digit replaced by a segment mask. -/
def setColumn (pl : Vector Byte 8) (p : Fin 8) (m : Byte) : Vector Byte 8 :=
  planesOf fun k => setBit pl[k] p (m.getLsbD k)

/-- All planes 0x00 (R175). -/
def zeroPlanes : Vector Byte 8 := planesOf fun _ => 0

/-! Updates of the state, one for each place. -/

def State.setQmem (s : State) (m : List Host.Cell) : State := { s with qmem := m }
def State.setWptr (s : State) (v : Nat) : State := { s with wptr := v }
def State.setRptr (s : State) (v : Nat) : State := { s with rptr := v }
def State.setWqSync (s : State) (v : Nat) : State := { s with wqSync := v }
def State.setRqSync (s : State) (v : Nat) : State := { s with rqSync := v }
def State.setChecksum (s : State) (a b : Byte) : State := { s with ckA := a, ckB := b }
def State.setPlane (s : State) (pl : Vector Byte 8) : State := { s with plane := pl }
def State.setWin (s : State) (v : List Sample) : State := { s with win := v }
def State.setSum (s : State) (v : Nat) : State := { s with sum := v }
def State.setWidx (s : State) (v : Nat) : State := { s with widx := v }
def State.setPort (s : State) (q : Port) : State := { s with port := q }

/-- The fault latch written (R226). -/
def State.latch (s : State) (cause : BitVec 3) (port : BitVec 2) (word : Word) : State :=
  { s with faultCause := cause, faultPort := port, faultWord := word }

/-- Pairs appended to `OUT` in order, with nothing between them: the `emit`s of one command (R10, R74). -/
def State.emitAll (s : State) (sender : Sender) (ps : List (Byte × Byte)) : State :=
  { s with out := s.out ++ ps.map fun x => OutEvent.pair sender x.1 x.2 }

/-- `emit(addr8, data8)` (R10, R69). -/
def State.emit (s : State) (sender : Sender) (addr data : Byte) : State := s.emitAll sender [(addr, data)]

def State.respondP (s : State) (v : Response) : State := { s with respP := s.respP ++ [v] }
def State.respondM (s : State) (v : Response) : State := { s with respM := s.respM ++ [v] }

/-- `respond(v)`: `v` to the port that issued the command (R10). Port S never receives a response (R40). -/
def State.respond (s : State) (v : Response) : State :=
  match s.port with
  | .p => s.respondP v
  | .m => s.respondM v
  | .s => s

/-! Command streams (R24). -/

/-- The word at the head of a stream, if there is one: the next that is written out, or the next of an endless
stream. -/
def CommandStream.head (st : CommandStream) : Option Word :=
  match st.words with
  | w :: _ => some w
  | [] => st.endless.map fun e => Config.hostWord e.source e.next

/-- The stream past its head. A stream with no head stays. -/
def CommandStream.tail (st : CommandStream) : CommandStream :=
  match st.words with
  | _ :: rest => ⟨rest, st.endless⟩
  | [] => ⟨[], st.endless.map fun e => ⟨e.source, e.next + 1⟩⟩

/-- Words put before a stream. -/
def CommandStream.prepend (ws : List Word) (st : CommandStream) : CommandStream := ⟨ws ++ st.words, st.endless⟩

/-- The command stream of a port (R24). -/
def State.stream (s : State) : Port → CommandStream
  | .p => s.streamP
  | .m => s.streamM
  | .s => s.streamS

def State.setStreamP (s : State) (v : CommandStream) : State := { s with streamP := v }
def State.setStreamM (s : State) (v : CommandStream) : State := { s with streamM := v }
def State.setStreamS (s : State) (v : CommandStream) : State := { s with streamS := v }

def State.setStream (s : State) (q : Port) (v : CommandStream) : State :=
  match q with
  | .p => s.setStreamP v
  | .m => s.setStreamM v
  | .s => s.setStreamS v

/-- The issuing port's stream moves past its head: the command has completed (R24). -/
def State.advance (s : State) : State := s.setStream s.port (s.stream s.port).tail

/-- The command completes: the next state, its stream advanced (R24). -/
def complete (s : State) : Host.Outcome State Fault Refusal := .next s.advance

/-- `hold`: no effect, and the stream does not advance (R10, R24). -/
def hold (s : State) : Host.Outcome State Fault Refusal := .next s

/-! Faults. -/

/-- The code `FAULT_CAUSE` takes (R220). -/
def FaultCause.code : FaultCause → BitVec 3
  | .illegalOpcode => 1
  | .wrongPort => 2
  | .reservedField => 3
  | .badDigitIndex => 4
  | .badBcdValue => 5

/-- The code `FAULT_PORT` takes (R37). -/
def portCode : Port → BitVec 2
  | .p => 0
  | .m => 1
  | .s => 2

/-- A fault has been recorded since reset (R36). -/
def State.faulted (s : State) : Bool := s.faultCause != 0

/-- TAKING A FAULT: `raise Fault(cause)` by the word `w` on the issuing port (R226). The latch is the command's only
effect, and the stream does not advance. `accept` calls it only while `FAULT_CAUSE = 0`. -/
def raise (cause : FaultCause) (w : Word) (s : State) : Host.Outcome State Fault Refusal :=
  .next (s.latch cause.code (portCode s.port) w)

/-- A command word taken by the issuing port, up to its rule: a parameter set that breaks R6 is refused; nothing is
decoded while a fault is recorded, and every port holds (R99, R227); a port that may not issue the opcode faults
(R97, R222); else the rest of the decoding and the command's rule, `body`. -/
def accept (w : Word) (body : State → Host.Outcome State Fault Refusal) (s : State) :
    Host.Outcome State Fault Refusal :=
  if s.cfg.legal then
    if s.faulted then hold s
    else if s.port ∈ opcodePorts (fieldOp w) then body s
    else raise .wrongPort w s
  else .refused .illegalParameters

/-- A word with a zero field that is not zero (R98, R223), after the port check (R99). -/
def rejectWord (w : Word) (s : State) : Host.Outcome State Fault Refusal :=
  accept w (raise .reservedField w) s

/-! Reset. -/

/-- The history, the streams and the model's own fields of `s` over the hardware state of `h`, with a reset marker
in each history (R40, R251). -/
def State.keepHost (h s : State) : State :=
  { h with
    out := s.out ++ [.resetMark], respP := s.respP ++ [.resetMark], respM := s.respM ++ [.resetMark]
    streamP := s.streamP, streamM := s.streamM, streamS := s.streamS
    schedule := s.schedule, port := s.port, round := s.round }

/-- One reset: every hardware element to its reset value, QMEM to no value; no command is consumed, nothing is
emitted or responded (R250, R251); this is also the only return from a fault (R227, R228). -/
def State.resetStep (s : State) : State := (State.resetWith s.cfg).keepHost s

end Sys2Proof.Machine
end

