-- ==== Sys2Proof/Machine/Flags.lean ====
section
/-! DEFINITION. The block stores no flags (10_state.md R38): the queue's fullness and emptiness are computed from the
pointers and the views each time a command needs them (40_byte_queue.md R127, R128). -/

namespace Sys2Proof.Machine

/-- `bin(WQ_SYNC)`, the consumer's view of the write pointer (R28). -/
def State.writeView (s : State) : Nat := bin (s.cfg.qaw + 1) s.wqSync

/-- `bin(RQ_SYNC)`, the producer's view of the read pointer (R29). -/
def State.readView (s : State) : Nat := bin (s.cfg.qaw + 1) s.rqSync

/-- `occ = (WPTR - RPTR) mod 2N` (R42). -/
def State.occupancy (s : State) : Nat := ringSub s.cfg.ringSize s.wptr s.rptr

/-- The occupancy the producer sees (R132). -/
def State.producerOccupancy (s : State) : Nat := ringSub s.cfg.ringSize s.wptr s.readView

/-- The occupancy the consumer sees (R132). -/
def State.consumerOccupancy (s : State) : Nat := ringSub s.cfg.ringSize s.writeView s.rptr

/-- The producer deems the queue full (R127). -/
def State.producerFull (s : State) : Bool := s.producerOccupancy == s.cfg.capacity

/-- The producer's full test without converting, `T` having ones in bits `QAW` and `QAW - 1` (R127). -/
def State.producerFullGray (s : State) : Bool :=
  gray s.wptr == s.rqSync ^^^ (2 ^ s.cfg.qaw + 2 ^ (s.cfg.qaw - 1))

/-- The consumer deems the queue empty (R128). -/
def State.consumerEmpty (s : State) : Bool := s.rptr == s.writeView

/-- The consumer's empty test without converting (R128). -/
def State.consumerEmptyGray (s : State) : Bool := gray s.rptr == s.wqSync

/-- The producer deems the queue empty (R123). -/
def State.producerEmpty (s : State) : Bool := s.wptr == s.readView

/-- What `Q_IS_EMPTY` answers on a port (R123). Port S never asks (R97). -/
def State.emptyOn (s : State) : Port → Bool
  | .p => s.producerEmpty
  | .m => s.consumerEmpty
  | .s => s.consumerEmpty

/-- The slot address of a pointer, its low `QAW` bits (R26, R27). -/
def State.slotOf (s : State) (ptr : Nat) : Nat := ptr % s.cfg.capacity

end Sys2Proof.Machine
end

