-- ==== Sys2Proof/Machine/Operands.lean ====
section
/-! DEFINITION. The operand forms of the commands: the digit index (30_encoding.md R92), the BCD value with its
pattern table (42_plane_transposer.md R171, R172), the tick (R176) and the sample (R94). -/

namespace Sys2Proof.Machine

/-- The index operand is in 1..D (R170). -/
def digitLegal (c : Config) (i : Index) : Bool := 1 ≤ i.toNat && i.toNat ≤ c.digits

/-- `D[6:4] = 0` (R171). -/
def bcdLegal (v : Byte) : Bool := v.extractLsb' 4 3 == 0#3

/-- The pattern of a code, from the `BCD` table (R172). -/
def bcdPattern (c : Config) (code : BitVec 4) : Byte := c.bcd.getD code.toNat 0

/-- The segment mask of a BCD operand: its pattern, with the decimal point if bit 7 asks for it (R171). -/
def bcdMask (c : Config) (v : Byte) : Byte :=
  if v.getLsbD 7 then bcdPattern c (v.extractLsb' 0 4) ||| 0x80#8 else bcdPattern c (v.extractLsb' 0 4)

/-- The logical digit `(t mod D) + 1` of a tick (R176). -/
def tickDigit (c : Config) (t : Byte) : Nat := t.toNat % c.digits + 1

/-- The element of the window at an index (R62). -/
def winRead (win : List Sample) (j : Nat) : Sample := win.getD j 0

/-- The mask of the digit at physical position `p`: column `p` of the planes (R177). -/
def columnOf (pl : Vector Byte 8) (p : Fin 8) : Byte :=
  BitVec.ofNat 8 (((List.finRange 8).map fun k => (pl[k].getLsbD p).toNat * 2 ^ k.val).sum)

end Sys2Proof.Machine
end

