-- ==== Sys2Proof/Machine/Checksum.lean ====
section
/-! DEFINITION. CKSUM: the meanings of `CK_RESET`, `CK_UPDATE`, `CK_READ`, and the fold they compute
(41_checksum.md). -/

namespace Sys2Proof.Machine

/-- `CK_RESET` (R150). -/
def execCkReset (s : State) : Host.Outcome State Fault Refusal :=
  accept (encode .ckReset) (fun s => complete (s.setChecksum 0 0)) s

/-- One byte folded into a pair of sums, each modulo 256 (R151, R154): the second sum adds the first's new value. -/
def foldByte (ab : Byte × Byte) (d : Byte) : Byte × Byte := (ab.1 + d, ab.2 + (ab.1 + d))

/-- `CK_UPDATE #d` (R151). -/
def execCkUpdate (d : Byte) (s : State) : Host.Outcome State Fault Refusal :=
  accept (encode (.ckUpdate d))
    (fun s =>
      complete (s.setChecksum (foldByte (s.ckA, s.ckB) d).1 (foldByte (s.ckA, s.ckB) d).2)) s

/-- The pair as `CK_READ` packs it: `CK_B` in bits 15:8, `CK_A` in bits 7:0 (R152). -/
def checksumWord (s : State) : Word := s.ckB ++ s.ckA

/-- `CK_READ` (R152). -/
def execCkRead (s : State) : Host.Outcome State Fault Refusal :=
  accept (encode .ckRead) (fun s => complete (s.respond (.word (checksumWord s)))) s

/-- The fold of a byte sequence from a pair of sums (R153). -/
def checksumFold (ab : Byte × Byte) (bytes : List Byte) : Byte × Byte := bytes.foldl foldByte ab

end Sys2Proof.Machine
end

