-- ==== Sys2Proof/Machine/MovingAverage.lean ====
section
/-! DEFINITION. MAVG: the meaning of `MA_SAMPLE` (43_moving_average.md). -/

namespace Sys2Proof.Machine

/-- `SUM - old + r` in the register's `SUMW` bits (R200, R206). In every state that satisfies R44 the difference is
not negative and the sum does not wrap; elsewhere it wraps as the register does (log entry 10). -/
def nextSum (c : Config) (sum : Nat) (old r : Sample) : Nat :=
  ((sum + (2 ^ c.sumw - old.toNat)) % 2 ^ c.sumw + r.toNat) % 2 ^ c.sumw

/-- `avg = SUM div W`, the floor (R200). -/
def average (c : Config) (sum : Nat) : Nat := sum / c.w

/-- `zext_8(avg div IDIV)`, the floor (R200, R204). -/
def intensity (c : Config) (sum : Nat) : Byte := BitVec.ofNat 8 (average c sum / c.idiv)

/-- The window with the new reading in the slot of the oldest, the sum moved with it, the index on (R200). -/
def integrate (r : Sample) (s : State) : State :=
  ((s.setSum (nextSum s.cfg s.sum (winRead s.win s.widx) r)).setWin (s.win.set s.widx r)).setWidx
    (ringNext s.cfg.w s.widx)

/-- The intensity command of a window's sum (R200, R205). -/
def emitIntensity (s : State) : State := s.emit .sample s.cfg.drvIntensityAddr (intensity s.cfg s.sum)

/-- `MA_SAMPLE #r` (R200). -/
def execMaSample (r : Sample) (s : State) : Host.Outcome State Fault Refusal :=
  accept (encode (.maSample r)) (fun s => complete (emitIntensity (integrate r s))) s

end Sys2Proof.Machine
end

