-- ==== Sys2Proof/Machine/Queue.lean ====
section
/-! DEFINITION. QUEUE: the meanings of `Q_APPEND`, `Q_POP`, `Q_IS_EMPTY` and the steps of the two sync agents
(40_byte_queue.md). -/

namespace Sys2Proof.Machine

/-- `WQ_SYNC <- gray(WPTR)`: the step of `AG_SYNC_W` (R125), and direct mode's publication (R121). -/
def publishWrite (s : State) : State := s.setWqSync (gray s.wptr)

/-- `RQ_SYNC <- gray(RPTR)`: the step of `AG_SYNC_R` (R126), and direct mode's publication (R121). -/
def publishRead (s : State) : State := s.setRqSync (gray s.rptr)

/-- In direct mode a command that moves `WPTR` also publishes it (R121). -/
def publishWriteDirect (s : State) : State := if s.cfg.syncMode = .direct then publishWrite s else s

/-- In direct mode a command that moves `RPTR` also publishes it (R121). -/
def publishReadDirect (s : State) : State := if s.cfg.syncMode = .direct then publishRead s else s

/-- The byte stored in the slot and the pointer moved (R120). -/
def storeByte (d : Byte) (s : State) : State :=
  (s.setQmem (memWrite (s.slotOf s.wptr) d s.qmem)).setWptr (ringNext s.cfg.ringSize s.wptr)

/-- `Q_APPEND #d` (R120): dropped when the producer sees the queue full (R130, 90_conflicts.md C1). -/
def execQAppend (d : Byte) (s : State) : Host.Outcome State Fault Refusal :=
  accept (encode (.qAppend d))
    (fun s => if s.producerFull then complete s else complete (publishWriteDirect (storeByte d s))) s

/-- `Q_POP` (R122): holds while the consumer sees the queue empty. -/
def execQPop (s : State) : Host.Outcome State Fault Refusal :=
  accept (encode .qPop)
    (fun s =>
      if s.consumerEmpty then hold s
      else
        match memRead s.qmem (s.slotOf s.rptr) with
        | none => .fault (.unwrittenQueueSlot (s.slotOf s.rptr))
        | some v =>
          complete
            ((publishReadDirect (s.setRptr (ringNext s.cfg.ringSize s.rptr))).respond (.byte v)))
    s

/-- `Q_IS_EMPTY` (R123). -/
def execQIsEmpty (s : State) : Host.Outcome State Fault Refusal :=
  accept (encode .qIsEmpty)
    (fun s => complete (s.respond (.bit (BitVec.ofBool (s.emptyOn s.port))))) s

/-- The step of `AG_SYNC_W`, which exists in gray mode only (R121, R125). -/
def syncWriteStep (s : State) : State := if s.cfg.syncMode = .gray then publishWrite s else s

/-- The step of `AG_SYNC_R`, which exists in gray mode only (R121, R126). -/
def syncReadStep (s : State) : State := if s.cfg.syncMode = .gray then publishRead s else s

end Sys2Proof.Machine
end

