-- ==== Sys2Proof/Machine/Reserved.lean ====
section
/-! DEFINITION. The reserved opcodes: each takes the fault ILLEGAL_OPCODE on every port (30_encoding.md R100,
60_exceptions.md R221). -/

namespace Sys2Proof.Machine

/-- Opcode 0xD (R221). -/
def execReservedD (rest : BitVec 12) (s : State) : Host.Outcome State Fault Refusal :=
  accept (encode (.reservedD rest)) (raise .illegalOpcode (encode (.reservedD rest))) s

/-- Opcode 0xE (R221). -/
def execReservedE (rest : BitVec 12) (s : State) : Host.Outcome State Fault Refusal :=
  accept (encode (.reservedE rest)) (raise .illegalOpcode (encode (.reservedE rest))) s

/-- Opcode 0xF (R221). -/
def execReservedF (rest : BitVec 12) (s : State) : Host.Outcome State Fault Refusal :=
  accept (encode (.reservedF rest)) (raise .illegalOpcode (encode (.reservedF rest))) s

end Sys2Proof.Machine
end

