-- ==== Sys2Proof/Machine/Transposer.lean ====
section
/-! DEFINITION. TPOSE: the meanings of the six display commands (42_plane_transposer.md). -/

namespace Sys2Proof.Machine

/-- The column of logical digit `i` replaced by a mask (R170, R171). -/
def writeDigit (i : Index) (mask : Byte) (s : State) : State :=
  s.setPlane (setColumn s.plane (s.cfg.permAt i.toNat) mask)

/-- `TP_SET_DIGIT i, #m` (R170). -/
def execTpSetDigit (i : Index) (m : Byte) (s : State) : Host.Outcome State Fault Refusal :=
  accept (encode (.tpSetDigit i m))
    (fun s =>
      if digitLegal s.cfg i then complete (writeDigit i m s)
      else raise .badDigitIndex (encode (.tpSetDigit i m)) s) s

/-- `TP_SET_DIGIT_BCD i, #v` (R171): the index is checked before the value (R225). -/
def execTpSetDigitBcd (i : Index) (v : Byte) (s : State) : Host.Outcome State Fault Refusal :=
  accept (encode (.tpSetDigitBcd i v))
    (fun s =>
      if digitLegal s.cfg i then
        if bcdLegal v then complete (writeDigit i (bcdMask s.cfg v) s)
        else raise .badBcdValue (encode (.tpSetDigitBcd i v)) s
      else raise .badDigitIndex (encode (.tpSetDigitBcd i v)) s) s

/-- `TP_CLEAR` (R175): nothing is emitted. -/
def execTpClear (s : State) : Host.Outcome State Fault Refusal :=
  accept (encode .tpClear) (fun s => complete (s.setPlane zeroPlanes)) s

/-- The burst of `TP_FLUSH`: plane `k` to the driver's register `k + 1` (R173, R179). -/
def flushPairs (pl : Vector Byte 8) : List (Byte × Byte) :=
  [(1, pl[0]), (2, pl[1]), (3, pl[2]), (4, pl[3]), (5, pl[4]), (6, pl[5]), (7, pl[6]), (8, pl[7])]

/-- `TP_FLUSH` (R173): one burst (R74). -/
def execTpFlush (s : State) : Host.Outcome State Fault Refusal :=
  accept (encode .tpFlush) (fun s => complete (s.emitAll .flush (flushPairs s.plane))) s

/-- The burst of `TP_INIT`, output enabled last (R174). -/
def initPairs (c : Config) : List (Byte × Byte) :=
  [(c.drvDecodeAddr, c.drvDecodeOff), (c.drvScanlimitAddr, c.drvScanlimitData),
   (c.drvTestAddr, c.drvTestOff), (c.drvShutdownAddr, c.drvShutdownOff)]

/-- `TP_INIT` (R174): one burst (R74); the planes are not touched. -/
def execTpInit (s : State) : Host.Outcome State Fault Refusal :=
  accept (encode .tpInit) (fun s => complete (s.emitAll .init (initPairs s.cfg))) s

/-- The planes with one decimal point lit and all else dark (R176). -/
def noSignalPlanes (p : Fin 8) : Vector Byte 8 :=
  planesOf fun k => if k = 7 then setBit 0 p true else 0

/-- `TP_SHOW_NO_SIGNAL #t` (R176): nothing is emitted. -/
def execTpShowNoSignal (t : Byte) (s : State) : Host.Outcome State Fault Refusal :=
  accept (encode (.tpShowNoSignal t))
    (fun s => complete (s.setPlane (noSignalPlanes (s.cfg.permAt (tickDigit s.cfg t))))) s

end Sys2Proof.Machine
end

