-- ==== Sys2Proof/Machine/Dispatch.lean ====
section
/-! DEFINITION. One arm for each command (30_encoding.md R95). -/

namespace Sys2Proof.Machine

def exec (i : Instr) (s : State) : Host.Outcome State Fault Refusal :=
  match i with
  -- QUEUE (40_byte_queue.md)
  | .qAppend d => Sys2Proof.Machine.execQAppend d s
  | .qPop => Sys2Proof.Machine.execQPop s
  | .qIsEmpty => Sys2Proof.Machine.execQIsEmpty s
  -- CKSUM (41_checksum.md)
  | .ckReset => Sys2Proof.Machine.execCkReset s
  | .ckUpdate d => Sys2Proof.Machine.execCkUpdate d s
  | .ckRead => Sys2Proof.Machine.execCkRead s
  -- TPOSE (42_plane_transposer.md)
  | .tpSetDigit k m => Sys2Proof.Machine.execTpSetDigit k m s
  | .tpSetDigitBcd k v => Sys2Proof.Machine.execTpSetDigitBcd k v s
  | .tpClear => Sys2Proof.Machine.execTpClear s
  | .tpFlush => Sys2Proof.Machine.execTpFlush s
  | .tpInit => Sys2Proof.Machine.execTpInit s
  | .tpShowNoSignal t => Sys2Proof.Machine.execTpShowNoSignal t s
  -- MAVG (43_moving_average.md)
  | .maSample r => Sys2Proof.Machine.execMaSample r s
  -- reserved opcodes (60_exceptions.md R221)
  | .reservedD rest => Sys2Proof.Machine.execReservedD rest s
  | .reservedE rest => Sys2Proof.Machine.execReservedE rest s
  | .reservedF rest => Sys2Proof.Machine.execReservedF rest s

end Sys2Proof.Machine
end

