-- ==== Sys2Proof/Machine/Agents.lean ====
section
/-! DEFINITION. What each agent does in one step (10_state.md R22, R23): a port agent takes the head of its stream,
decodes it (30_encoding.md R99) and executes it; the sync agents and the reset input. -/

namespace Sys2Proof.Machine

/-- A command word presented on the issuing port (R99): decoded and executed, or rejected for a zero field. -/
def runWord (w : Word) (s : State) : Host.Outcome State Fault Refusal :=
  match decode w with
  | .ok i => exec i s
  | .error (.reservedField _) => rejectWord w s

/-- The step of the agent of port `q` (R22, R23). A port with nothing to take does nothing (log entry 5). -/
def portStep (q : Port) (s : State) : Host.Outcome State Fault Refusal :=
  match (s.stream q).head with
  | none => .next s
  | some w => runWord w (s.setPort q)

/-- The step of an agent. A parameter set that breaks R6 is refused. While a fault is recorded no port agent and no
sync agent takes a step (R227); only reset acts (R250). An agent that is not enabled changes nothing (log entry 5). -/
def agentStep (a : Agent) (s : State) : Host.Outcome State Fault Refusal :=
  if s.cfg.legal then
    match a with
    | .reset => .next s.resetStep
    | .port q => if s.faulted then .next s else portStep q s
    | .syncW => if s.faulted then .next s else .next (syncWriteStep s)
    | .syncR => if s.faulted then .next s else .next (syncReadStep s)
  else .refused .illegalParameters

/-- The agent whose turn ends a round: each agent but the reset input in its time, which is the weak fairness that
40_byte_queue.md R133 and 92 D28 assume of the sync agents and of the ports. -/
def fairAgent (round : Nat) : Agent :=
  match round % 5 with
  | 0 => .syncW
  | 1 => .syncR
  | 2 => .port .p
  | 3 => .port .m
  | _ => .port .s

/-- The turns of a round: any agents in any order (R22), then a fair turn. Every weakly fair order of turns is a row of
such rounds, and every row of such rounds is weakly fair. Log entry 4. -/
def roundTurns (round : Nat) : List Agent := Config.freeTurns round ++ [fairAgent round]

/-- The turns to come: the schedule's (R102), or, when it is used up, those of the next round. -/
def State.turns (s : State) : List Agent :=
  match s.schedule with
  | [] => roundTurns s.round
  | a :: rest => a :: rest

/-- The agent that steps next. There always is one: a round is never empty. -/
def State.turn (s : State) : Agent := s.turns.headD (fairAgent s.round)

/-- The turn is taken: the turns move on, and a round that begins is counted. -/
def State.takeTurn (s : State) : State :=
  { s with schedule := s.turns.tail, round := if s.schedule = [] then s.round + 1 else s.round }

/-- Any number of agents step in the given order, on the state's own streams and apart from its schedule. -/
def runAgents : List Agent → State → Host.Outcome State Fault Refusal
  | [], s => .next s
  | a :: rest, s =>
    match agentStep a s with
    | .next t => runAgents rest t
    | .fault r => .fault r
    | .refused r => .refused r

/-- A program for the block: one command stream for each port, and a schedule where the result depends on the
interleaving (R102). -/
structure Program where
  streamP : CommandStream
  streamM : CommandStream
  streamS : CommandStream
  schedule : List Agent
deriving DecidableEq, Repr

/-- The host supplies a program (R24, 92 D29). Log entry 6. -/
def State.load (s : State) (g : Program) : State :=
  { s with streamP := g.streamP, streamM := g.streamM, streamS := g.streamS, schedule := g.schedule }

/-- A port that may issue the word: the first that R95 lists for its opcode. -/
def firstPort (w : Word) : Port := (opcodePorts (fieldOp w)).headD .m

/-- The word put at the head of port `q`'s stream and `q`'s agent put first in the schedule. -/
def State.present (s : State) (q : Port) (w : Word) : State :=
  { s.setStream q ((s.stream q).prepend [w]) with schedule := .port q :: s.schedule }

end Sys2Proof.Machine
end

