-- ==== Sys2Proof/Machine/Step.lean ====
section
/-! DEFINITION. One step of the block: the agent whose turn it is takes its step (10_state.md R22, 20_memory.md R71).
And how a word is placed so that the next step takes it. -/

namespace Sys2Proof.Machine

/-- One step of one agent (R22, R71). -/
def step (s : State) : Host.Outcome State Fault Refusal := agentStep s.turn s.takeTurn

/-- The word at the head of the stream of a port that may issue it, that port's agent next in the schedule, and no
fault recorded, since a faulted block takes no command (R227). Log entry 19. -/
def State.withFetchWord (s : State) (nbits w : Nat) : State :=
  (s.latch 0 0 0).present (firstPort (tableWord nbits w)) (tableWord nbits w)

end Sys2Proof.Machine
end

