-- ==== Sys2Proof/Machine/Assembler.lean ====
section
/-! DEFINITION. The assembler's syntax (30_encoding.md R101), the pseudo-instructions (R103–R105) and the protocol
frame that gives `CK_FRAME` its context (20_memory.md R70, 41_checksum.md R156). -/

namespace Sys2Proof.Machine

/-! Pseudo-instructions: the commands each expands to. -/

/-- `CK_UPDATE_MANY b0, …` (R103). -/
def ckUpdateMany (bytes : List Byte) : List Instr := bytes.map Instr.ckUpdate

/-- The low and the high byte of a 16-bit payload length, low byte first (R70, R104). -/
def lengthBytes (n : Nat) : List Byte := [BitVec.ofNat 8 n, BitVec.ofNat 8 (n / 256)]

/-- The bytes a frame's checksum covers: class, id, length, payload (R156). -/
def frameCovered (cls id : Byte) (payload : List Byte) : List Byte :=
  [cls, id] ++ lengthBytes payload.length ++ payload

/-- `CK_FRAME cls, id, b0, …`, for at most 65535 payload bytes (R104). -/
def ckFrame (cls id : Byte) (payload : List Byte) : Option (List Instr) :=
  if payload.length ≤ 65535 then
    some ([.ckReset, .ckUpdate cls, .ckUpdate id] ++ ckUpdateMany (lengthBytes payload.length) ++
      ckUpdateMany payload ++ [.ckRead])
  else none

/-- The frame a host sends: sync bytes, covered bytes, checksum low byte first (R70, R156). -/
def frameBytes (cls id : Byte) (payload : List Byte) (ckA ckB : Byte) : List Byte :=
  [0xB5#8, 0x62#8] ++ frameCovered cls id payload ++ [ckA, ckB]

/-- The two digits of a value of 0..99, tens first, written to digits `i` and `i + 1` (R105). -/
def bcdPair (i : Index) (v : Nat) : List Instr :=
  [.tpSetDigitBcd i (BitVec.ofNat 8 (v / 10)), .tpSetDigitBcd (i + 1) (BitVec.ofNat 8 (v % 10))]

/-- `TP_SHOW_HMS h, m, s`; a value above 99 is refused (R105). -/
def tpShowHms (h m s : Nat) : Option (List Instr) :=
  if h ≤ 99 ∧ m ≤ 99 ∧ s ≤ 99 then
    some (bcdPair 1 h ++ bcdPair 3 m ++ bcdPair 5 s ++ [.tpFlush])
  else none

/-! Command lines (R101). -/

/-- A decimal digit's value. -/
def decDigit (c : Char) : Option Nat :=
  if '0' ≤ c ∧ c ≤ '9' then some (c.toNat - '0'.toNat) else none

/-- A hexadecimal digit's value, of either case (log entry 18). -/
def hexDigit (c : Char) : Option Nat :=
  if 'a' ≤ c ∧ c ≤ 'f' then some (c.toNat - 'a'.toNat + 10)
  else if 'A' ≤ c ∧ c ≤ 'F' then some (c.toNat - 'A'.toNat + 10)
  else decDigit c

/-- The number a row of digits writes, `none` if one is no digit of the base. -/
def digitsValue (base : Nat) (digit : Char → Option Nat) : List Char → Nat → Option Nat
  | [], acc => some acc
  | c :: rest, acc => (digit c).bind fun d => digitsValue base digit rest (base * acc + d)

/-- A decimal number, of at least one digit. -/
def decNumber (cs : List Char) : Option Nat :=
  if cs = [] then none else digitsValue 10 decDigit cs 0

/-- A data operand without its `#`: decimal, or `0x` and hexadecimal (R101). -/
def dataNumber : List Char → Option Nat
  | '0' :: 'x' :: rest => if rest = [] then none else digitsValue 16 hexDigit rest 0
  | cs => decNumber cs

/-- A data operand of at most `top` (R101). -/
def dataOperand (top : Nat) : List Char → Option Nat
  | '#' :: cs => (dataNumber cs).bind fun v => if v ≤ top then some v else none
  | _ => none

/-- An index operand, 0..15 (R101). -/
def indexOperand (cs : List Char) : Option Nat :=
  (decNumber cs).bind fun v => if v ≤ 15 then some v else none

/-- The parts of a text between separators. -/
def splitAt (sep : Char) : List Char → List (List Char)
  | [] => [[]]
  | c :: rest =>
    if c = sep then [] :: splitAt sep rest
    else
      match splitAt sep rest with
      | [] => [[c]]
      | part :: parts => (c :: part) :: parts

/-- The words of a text: its parts between spaces, empty ones left out (log entry 18). -/
def spaced (cs : List Char) : List (List Char) := (splitAt ' ' cs).filter (· ≠ [])

/-- The command of a mnemonic and its operand words, in the forms of R101. The comma stands at the end of the index
operand. -/
def assembleCommand (mnemonic : List Char) (ops : List (List Char)) : Option Instr :=
  if ops = [] then
    [("Q_POP".toList, Instr.qPop), ("Q_IS_EMPTY".toList, .qIsEmpty), ("CK_RESET".toList, .ckReset),
     ("CK_READ".toList, .ckRead), ("TP_CLEAR".toList, .tpClear), ("TP_FLUSH".toList, .tpFlush),
     ("TP_INIT".toList, .tpInit)].lookup mnemonic
  else
    match ops with
    | [d] =>
      if mnemonic = "Q_APPEND".toList then (dataOperand 255 d).map fun v => .qAppend (BitVec.ofNat 8 v)
      else if mnemonic = "CK_UPDATE".toList then
        (dataOperand 255 d).map fun v => .ckUpdate (BitVec.ofNat 8 v)
      else if mnemonic = "TP_SHOW_NO_SIGNAL".toList then
        (dataOperand 255 d).map fun v => .tpShowNoSignal (BitVec.ofNat 8 v)
      else if mnemonic = "MA_SAMPLE".toList then
        (dataOperand 1023 d).map fun v => .maSample (BitVec.ofNat 10 v)
      else none
    | [k, d] =>
      if k.getLast? = some ',' then
        (indexOperand k.dropLast).bind fun a =>
          (dataOperand 255 d).bind fun v =>
            if mnemonic = "TP_SET_DIGIT".toList then
              some (.tpSetDigit (BitVec.ofNat 4 a) (BitVec.ofNat 8 v))
            else if mnemonic = "TP_SET_DIGIT_BCD".toList then
              some (.tpSetDigitBcd (BitVec.ofNat 4 a) (BitVec.ofNat 8 v))
            else none
      else none
    | _ => none

/-- The port a line names (R101). -/
def assemblePort : List Char → Option Port
  | ['P', ':'] => some .p
  | ['M', ':'] => some .m
  | ['S', ':'] => some .s
  | _ => none

/-- One command line, `<port>: <MNEMONIC> <operands>`, to the port and the word `encode` writes (R101). -/
def assembleLine (line : List Char) : Option (Port × Word) :=
  match spaced line with
  | p :: mnemonic :: ops =>
    (assemblePort p).bind fun port => (assembleCommand mnemonic ops).map fun i => (port, encode i)
  | _ => none

end Sys2Proof.Machine
end

