-- ==== Sys2Proof/Machine/Driver.lean ====
section
/-! DEFINITION. What the output history says of the external display driver (20_memory.md R63, R69, 60_exceptions.md
R236, 70 R254, R255). The driver is no agent and none of this is state of the block. -/

namespace Sys2Proof.Machine

/-- The bits of one byte, most significant first (R69). -/
def msbFirst (b : Byte) : List Bool := (List.range 8).map fun i => b.getLsbD (7 - i)

/-- The 16 bits of one display command in the order they leave on the wire: address byte, then data byte (R69). -/
def wireBits (addr data : Byte) : List Bool := msbFirst addr ++ msbFirst data

/-- What a driver register holds after one entry of the history. A reset marker may be a power-up, after which the
driver's state is unknown (R239, R254; log entry 13). -/
def driverEvent (a : Byte) (held : Option Byte) : OutEvent → Option Byte
  | .pair _ x d => if x = a then some d else held
  | .resetMark => none

/-- What a driver register holds after a history, `none` where it is not known (R63, R254). -/
def driverRegister (h : List OutEvent) (a : Byte) : Option Byte := h.foldl (driverEvent a) none

/-- How far the display's start-up has come since the last reset (70_reset_and_hazards.md R254, R255). -/
inductive StartUp where
  /-- no `TP_INIT` yet: what the display shows is unknown -/
  | unknown
  /-- a `TP_INIT` has been sent and no `TP_FLUSH` after it: still unknown -/
  | initialised
  /-- a `TP_INIT` and then a `TP_FLUSH` have been sent -/
  | shown
deriving DecidableEq, Repr

/-- What one entry of the history does to the start-up: the sender of a pair decides, whatever its address, since a
driver address may be any byte (00_scope.md R5). -/
def startUpEvent (u : StartUp) : OutEvent → StartUp
  | .resetMark => .unknown
  | .pair .init _ _ => if u = .unknown then .initialised else u
  | .pair .flush _ _ => if u = .initialised then .shown else u
  | .pair .sample _ _ => u

/-- How far the start-up has come after a history. -/
def startUp (h : List OutEvent) : StartUp := h.foldl startUpEvent .unknown

/-- The plane the display shows for segment `k`: known only once a `TP_INIT` and a `TP_FLUSH` have been sent since
the last reset, and then what was last sent to the plane's register (R179, R254, R255). -/
def shownPlane (h : List OutEvent) (k : Fin 8) : Option Byte :=
  if startUp h = .shown then driverRegister h (BitVec.ofNat 8 (k.val + 1)) else none

end Sys2Proof.Machine
end

