-- ==== Sys2Proof/Safety.lean ====
section
/-! DEFINITION. The terms claims are stated in: a running block, the invariants of 10_state.md R42–R45 and
93_implementation_defined.md item 24, the queue's contents, the causes that apply to a word (60_exceptions.md R225)
and fair schedules (40_byte_queue.md R133). -/

namespace Sys2Proof.Machine

/-- The block can take commands: its parameters are legal (00_scope.md R6) and no fault is recorded (R227). -/
def State.Running (s : State) : Prop := s.cfg.legal = true ∧ s.faultCause = 0

/-! Invariants. -/

/-- The queue: the storage in canonical form and inside 0..N-1 (R60); pointers and views of `QAW + 1` bits (R26–R29);
occupancy (R42); the views lag (R43); in direct mode they do not (R43); every unread slot holds a value (R131). -/
structure State.QueueInv (s : State) : Prop where
  stored : Memory.wf s.qmem
  inside : ∀ c ∈ s.qmem, c.1 < s.cfg.capacity
  wptr_lt : s.wptr < s.cfg.ringSize
  rptr_lt : s.rptr < s.cfg.ringSize
  wqSync_lt : s.wqSync < s.cfg.ringSize
  rqSync_lt : s.rqSync < s.cfg.ringSize
  occupancy_le : s.occupancy ≤ s.cfg.capacity
  writeView_between :
    s.consumerOccupancy + ringSub s.cfg.ringSize s.wptr s.writeView = s.occupancy
  readView_behind :
    s.producerOccupancy = s.occupancy + ringSub s.cfg.ringSize s.rptr s.readView
  producerOccupancy_le : s.producerOccupancy ≤ s.cfg.capacity
  direct_exact : s.cfg.syncMode = .direct → s.wqSync = gray s.wptr ∧ s.rqSync = gray s.rptr
  unread_written :
    ∀ k < s.occupancy, (memRead s.qmem (s.slotOf (s.rptr + k))).isSome = true

/-- The window: `W` elements (R33), the index below `W` (R35), and `SUM` exactly their sum (R44). -/
structure State.WindowInv (s : State) : Prop where
  length_eq : s.win.length = s.cfg.w
  widx_lt : s.widx < s.cfg.w
  sum_eq : s.sum = (s.win.map BitVec.toNat).sum

/-- The plane bits no digit is wired to are 0 (R45). -/
def State.PlaneInv (s : State) : Prop :=
  ∀ k p : Fin 8, p ∉ s.cfg.perm → s.plane[k].getLsbD p.val = false

/-- The fault latch: no reserved cause (R220) and no port code 3 (R37); the port and the word at their reset values
while no fault is recorded (93 item 24). -/
structure State.FaultInv (s : State) : Prop where
  cause_le : s.faultCause.toNat ≤ 5
  port_ne : s.faultPort ≠ 3
  clear : s.faultCause = 0 → s.faultPort = 0 ∧ s.faultWord = 0

/-- The invariant of the block. -/
structure State.Inv (s : State) : Prop where
  queue : s.QueueInv
  window : s.WindowInv
  planes : s.PlaneInv
  fault : s.FaultInv

/-! The queue as a sequence of bytes. -/

/-- The unread bytes, oldest first: the slots from `RPTR` up to `WPTR` (R129). -/
def State.contents (s : State) : List Byte :=
  (List.range s.occupancy).map fun k => (memRead s.qmem (s.slotOf (s.rptr + k))).getD 0

/-- The bytes an agent's step accepts into the queue: the operand of a `Q_APPEND` that finds room (R120). -/
def acceptedBy (a : Agent) (s : State) : List Byte :=
  match a, s.streamP.head with
  | .port .p, some w =>
    match decode w with
    | .ok (.qAppend d) => if s.faulted || s.producerFull then [] else [d]
    | _ => []
  | _, _ => []

/-- The bytes accepted over a run of agents' steps (R129). -/
def acceptedOver : List Agent → State → List Byte
  | [], _ => []
  | a :: rest, s =>
    match agentStep a s with
    | .next t => acceptedBy a s ++ acceptedOver rest t
    | .fault _ => []
    | .refused _ => []

/-- The bytes among responses: what `Q_POP` has responded. -/
def poppedBytes (rs : List Response) : List Byte :=
  rs.filterMap fun r =>
    match r with
    | .byte v => some v
    | .bit _ => none
    | .word _ => none
    | .resetMark => none

/-! Words and their faults, apart from the decoder. -/

/-- The fault causes that apply to a word on a port, in the order of R225, read off the tables of R95 and R220. -/
def causesOf (c : Config) (w : Word) (q : Port) : List FaultCause :=
  (if 13 ≤ (fieldOp w).toNat then [.illegalOpcode] else []) ++
  (if q ∉ opcodePorts (fieldOp w) then [.wrongPort] else []) ++
  (if w &&& zeroMask (fieldOp w) ≠ 0 then [.reservedField] else []) ++
  (if ((fieldOp w).toNat = 6 ∨ (fieldOp w).toNat = 7) ∧
      ((fieldA w).toNat = 0 ∨ c.digits < (fieldA w).toNat) then [.badDigitIndex] else []) ++
  (if (fieldOp w).toNat = 7 ∧ (fieldD w).extractLsb' 4 3 ≠ 0 then [.badBcdValue] else [])

/-- The exception each command's rule lists first: a word of opcode `op` on a port not among `ports` takes WRONG_PORT
(code 2), and nothing else changes (R222, R226). -/
def PortException (op : BitVec 4) (ports : List Port) : Prop :=
  ∀ (w : Word) (s : State), s.Running → fieldOp w = op → s.port ∉ ports →
    runWord w s = .next (s.latch 2 (portCode s.port) w)

/-- The exceptions of a command with a zero field: WRONG_PORT as above, and on one of its ports a word with a bit of
`zero` set takes RESERVED_FIELD (code 3), and nothing else changes (R223, R226). -/
def CommandExceptions (op : BitVec 4) (ports : List Port) (zero : Word) : Prop :=
  PortException op ports ∧
  ∀ (w : Word) (s : State), s.Running → fieldOp w = op → s.port ∈ ports → w &&& zero ≠ 0 →
    runWord w s = .next (s.latch 3 (portCode s.port) w)

/-! Frames: what two states have in common. -/

/-- Every element of QMEM reads as before. -/
def State.SameStorage (s t : State) : Prop := ∀ a, memRead t.qmem a = memRead s.qmem a

/-- The pointers and the views are as before. -/
def State.SamePointers (s t : State) : Prop :=
  t.wptr = s.wptr ∧ t.rptr = s.rptr ∧ t.wqSync = s.wqSync ∧ t.rqSync = s.rqSync

/-- The checksum pair is as before. -/
def State.SameChecksum (s t : State) : Prop := t.ckA = s.ckA ∧ t.ckB = s.ckB

/-- The window, its sum and its index are as before. -/
def State.SameWindow (s t : State) : Prop := t.win = s.win ∧ t.sum = s.sum ∧ t.widx = s.widx

/-- The parameters, the schedule and the model's own fields are as before. -/
def State.SameSetting (s t : State) : Prop :=
  t.cfg = s.cfg ∧ t.schedule = s.schedule ∧ t.port = s.port ∧ t.round = s.round

/-- The streams of the ports that are not issuing are as before; the issuing port's is as before or has moved past
its head (R24). -/
def State.StreamsMoved (s t : State) : Prop :=
  (∀ q, q ≠ s.port → t.stream q = s.stream q) ∧
  (t.stream s.port = s.stream s.port ∨ t.stream s.port = (s.stream s.port).tail)

/-- The fault registers are as before, or a fault entry wrote them, when none was recorded, and nothing else. -/
def State.FaultsKeptOrEntered (s t : State) : Prop :=
  (t.faultCause = s.faultCause ∧ t.faultPort = s.faultPort ∧ t.faultWord = s.faultWord) ∨
  (s.faultCause = 0 ∧ t = s.latch t.faultCause t.faultPort t.faultWord)

/-! History. -/

/-- The state without the history that no command reads (R40). -/
def State.forgetHistory (s : State) : State := { s with out := [], respP := [], respM := [] }

/-! Schedules. -/

/-- The agent takes a step infinitely often (R133). -/
def StepsForever (f : Nat → Agent) (a : Agent) : Prop := ∀ n, ∃ m, n ≤ m ∧ f m = a

/-- Weak fairness of an endless order of agents: of `AG_SYNC_W` and `AG_SYNC_R` (R133) and of the ports (92 D28). The
step of an agent that is not enabled changes nothing (log entry 5), so an order in which each agent has its turn
infinitely often is one in which none is enabled for ever without a step. -/
def WeaklyFair (f : Nat → Agent) : Prop := ∀ a, a ≠ .reset → StepsForever f a

/-- The agents whose turn it is, from a state's schedule on (the turns do not depend on what the steps do). -/
def State.order : State → Nat → Agent
  | s, 0 => s.turn
  | s, n + 1 => State.order s.takeTurn n

/-- Fairness as far as a pop needs it: `AG_SYNC_W` and port M's agent step infinitely often, and no reset intervenes.
A weakly fair order without a reset is one. -/
def FairForPop (f : Nat → Agent) : Prop :=
  StepsForever f .syncW ∧ StepsForever f (.port .m) ∧ ∀ n, f n ≠ .reset

/-- The commands of a list as the words of port M's stream, `n` turns of port M and then `rest`. -/
def State.withCommandsM (s : State) (is : List Instr) (later : CommandStream) (rest : List Agent) : State :=
  { s with
    streamM := later.prepend (is.map encode)
    schedule := List.replicate is.length (.port .m) ++ rest }

/-- The samples of a list as the words of port S's stream, as many turns of port S and then `rest`. -/
def State.withSamples (s : State) (vs : List Sample) (later : CommandStream) (rest : List Agent) :
    State :=
  { s with
    streamS := later.prepend (vs.map fun v => encode (.maSample v))
    schedule := List.replicate vs.length (.port .s) ++ rest }

end Sys2Proof.Machine
end

