-- ==== Sys2Proof/Certificates/Slice0/Obligations.lean ====
section
/-! DEFINITION. What is claimed of the model, each statement from the rules of spec/ its docstring names. -/

open Sys2Proof Sys2Proof.Machine

/-! ### Encoding (30_encoding.md) -/

/-- R91, R95, R101: decoding the word of any command gives that command, every operand at every value. -/
def Obligations.DecodeOfEncode : Prop := ∀ i : Instr, decode (encode i) = .ok i

/-- R95: a word decodes exactly when it selects a row of the opcode map, and then to that row's command, on that
row's ports, whose word it is (R91: no two words are one command); a word that selects no row has a zero field that
is not zero. -/
def Obligations.DecoderFollowsOpcodeMap : Prop :=
  (∀ (w : Word) (i : Instr), decode w = .ok i → encode i = w) ∧
  (∀ (w : Word) (i : Instr), decode w = .ok i →
    ∀ r ∈ opcodeMap, (r.selects w = true ↔ r.mnemonic = i.mnemonic) ∧
      (r.selects w = true → opcodePorts (fieldOp w) = r.ports)) ∧
  (∀ w : Word, (∃ i, decode w = .ok i) ↔ ∃ r ∈ opcodeMap, r.selects w = true) ∧
  (∀ w : Word, (∀ r ∈ opcodeMap, r.selects w = false) ↔
    decode w = .error (.reservedField (fieldOp w)))

/-- Words written out from the layouts of R91 and the map of R95, each the command it stands for. -/
def Obligations.WrittenWordsDecode : Prop :=
  decode 0b0000000000100100#16 = .ok (.qAppend 0x24) ∧
  decode 0b0001000000000000#16 = .ok .qPop ∧
  decode 0b0100000011111111#16 = .ok (.ckUpdate 0xFF) ∧
  decode 0b0110000100111111#16 = .ok (.tpSetDigit 1 0x3F) ∧
  decode 0b0111001110000011#16 = .ok (.tpSetDigitBcd 3 0x83) ∧
  decode 0b1100001001011000#16 = .ok (.maSample 600) ∧
  decode 0b1110000100100011#16 = .ok (.reservedE 0x123)

/-! ### Faults (60_exceptions.md) -/

/-- R221: an opcode 0xD, 0xE or 0xF takes ILLEGAL_OPCODE on any port, as a word and as each reserved command. -/
def Obligations.ReservedOpcodesFault : Prop :=
  (∀ (w : Word) (s : State), s.Running →
    (fieldOp w = 0xD ∨ fieldOp w = 0xE ∨ fieldOp w = 0xF) →
    runWord w s = .next { s with faultCause := 1, faultPort := portCode s.port, faultWord := w }) ∧
  (∀ (rest : BitVec 12) (s : State), s.Running →
    exec (.reservedD rest) s =
      .next { s with faultCause := 1, faultPort := portCode s.port, faultWord := 0xD#4 ++ rest } ∧
    exec (.reservedE rest) s =
      .next { s with faultCause := 1, faultPort := portCode s.port, faultWord := 0xE#4 ++ rest } ∧
    exec (.reservedF rest) s =
      .next { s with faultCause := 1, faultPort := portCode s.port, faultWord := 0xF#4 ++ rest })

/-- R222: a legal opcode on a port R95 does not list for it takes WRONG_PORT, whatever its other fields hold. -/
def Obligations.WrongPortFaults : Prop :=
  ∀ (w : Word) (s : State), s.Running → (fieldOp w).toNat < 0xD →
    (∀ r ∈ opcodeMap, fieldOp r.pattern = fieldOp w → s.port ∉ r.ports) →
    runWord w s = .next { s with faultCause := 2, faultPort := portCode s.port, faultWord := w }

/-- R223: a legal opcode on an allowed port whose word selects no row (a zero field is not zero) takes
RESERVED_FIELD. -/
def Obligations.ReservedFieldFaults : Prop :=
  ∀ (w : Word) (s : State), s.Running → (fieldOp w).toNat < 0xD →
    (∃ r ∈ opcodeMap, fieldOp r.pattern = fieldOp w ∧ s.port ∈ r.ports ∧ r.selects w = false) →
    runWord w s = .next { s with faultCause := 3, faultPort := portCode s.port, faultWord := w }

/-- R225: of the causes that apply to a word the first is recorded; where none applies, none is. -/
def Obligations.FirstCauseIsRecorded : Prop :=
  ∀ (w : Word) (s : State), s.Running →
    match causesOf s.cfg w s.port with
    | c :: _ =>
      runWord w s = .next { s with faultCause := c.code, faultPort := portCode s.port, faultWord := w }
    | [] => ∀ t, runWord w s = .next t → t.faultCause = 0

/-- R220, R224 from the side of the commands: on a port that may issue it, a command faults exactly when its
operands are illegal or its opcode is reserved. -/
def Obligations.WellFormedCommandsDoNotFault : Prop :=
  ∀ (i : Instr) (s : State), s.Running → s.port ∈ opcodePorts (fieldOp (encode i)) →
    (i.wellFormed s.cfg = true → ∀ t, exec i s = .next t → t.faultCause = 0) ∧
    (i.wellFormed s.cfg = false → ∃ t, exec i s = .next t ∧ t.faultCause ≠ 0)

/-- R226: an agent's step that records a fault is the step of a port, and writes the latch with that port and the
word at its head and nothing else: the stream does not advance. -/
def Obligations.FaultEntryWritesOnlyTheLatch : Prop :=
  ∀ (a : Agent) (s t : State), agentStep a s = .next t → s.faultCause = 0 → t.faultCause ≠ 0 →
    ∃ q w, a = .port q ∧ (s.stream q).head = some w ∧
      t = { s with port := q, faultCause := t.faultCause, faultPort := portCode q, faultWord := w }

/-- R227: while a fault is recorded no port agent and no sync agent changes anything; a reset leaves the state. -/
def Obligations.FaultedBlockOnlyResets : Prop :=
  ∀ (a : Agent) (s : State), s.cfg.legal = true → s.faultCause ≠ 0 →
    (a ≠ .reset → agentStep a s = .next s) ∧
    (∃ t, agentStep .reset s = .next t ∧ t.faultCause = 0) ∧
    (∀ i : Instr, exec i s = .next s)

/-! ### Reset and parameters (70_reset_and_hazards.md, 00_scope.md) -/

/-- R250, R251, R40: one reset sets every hardware element to the value of R41, emits and responds nothing, marks
the history, and leaves the streams. -/
def Obligations.ResetStepSetsEveryElement : Prop :=
  ∀ s : State, s.cfg.legal = true →
    agentStep .reset s = .next
      { s with
        qmem := [], wptr := 0, rptr := 0, wqSync := 0, rqSync := 0, ckA := 0, ckB := 0
        plane := #v[0, 0, 0, 0, 0, 0, 0, 0], win := List.replicate s.cfg.w 0, sum := 0, widx := 0
        faultCause := 0, faultPort := 0, faultWord := 0
        out := s.out ++ [.resetMark], respP := s.respP ++ [.resetMark]
        respM := s.respM ++ [.resetMark] }

/-- R252 (which the spec derives from R41, R123 and R250): what the ports see right after a reset step, from every
state. -/
def Obligations.StateAfterResetStep : Prop :=
  ∀ s t : State, agentStep .reset s = .next t →
    t.emptyOn .p = true ∧ t.emptyOn .m = true ∧ t.producerOccupancy = 0 ∧
    t.ckA = 0 ∧ t.ckB = 0 ∧ (∀ k : Fin 8, t.plane[k] = 0) ∧ (∀ v ∈ t.win, v = 0) ∧
    t.sum = 0 ∧ t.widx = 0 ∧ t.faultCause = 0

/-- The invariant holds right after reset, for every legal parameter set (R41; R42–R45, which the spec derives). -/
def Obligations.ResetEstablishesInvariant : Prop :=
  ∀ c : Config, c.legal = true → (State.resetWith c).Inv

/-- Every step keeps the invariant (R42–R45 and R131, which the spec derives from the commands' rules). -/
def Obligations.StepKeepsInvariant : Prop :=
  ∀ s t : State, s.Inv → step s = .next t → t.Inv

/-- R25, and R131, which the spec derives: a pop of a slot that holds no value is a fault of the model (log entry
9), and from a state that satisfies the invariant no step comes to it. -/
def Obligations.OnlyUnwrittenSlotsStop : Prop :=
  (∀ s : State, s.Running → s.port = .m → s.rptr ≠ bin (s.cfg.qaw + 1) s.wqSync →
    memRead s.qmem (s.rptr % 2 ^ s.cfg.qaw) = none →
    exec .qPop s = .fault (.unwrittenQueueSlot (s.rptr % 2 ^ s.cfg.qaw))) ∧
  (∀ (s : State) (f : Fault), s.Inv → step s ≠ .fault f)

/-- R6 (which the spec derives from R5): a parameter set that breaks a condition is refused by every step and every
command. -/
def Obligations.IllegalParametersRefused : Prop :=
  ∀ s : State,
    ¬ (1 ≤ s.cfg.qaw ∧ s.cfg.perm.length = s.cfg.digits ∧ s.cfg.perm.Nodup ∧ (∃ k, s.cfg.w = 2 ^ k) ∧
        (2 ^ s.cfg.sw - 1) / s.cfg.idiv ≤ 15 ∧ s.cfg.sw + Nat.log2 s.cfg.w ≤ s.cfg.sumw) →
    step s = .refused .illegalParameters ∧ ∀ i, exec i s = .refused .illegalParameters

/-- The converse of R6, the model's reading of it: a set that meets its conditions, with the values the rules fix
for `QDW`, `NPLANES`, `BCD` and `SW` (R25, R31, R32, R94; log entry 3) and with `IDIV` and `D` at least 1 (the
model's own addition, log entry 2), is accepted, so that no step is refused. -/
def Obligations.LegalParametersAccepted : Prop :=
  ∀ s : State,
    1 ≤ s.cfg.qaw → 1 ≤ s.cfg.digits → s.cfg.perm.length = s.cfg.digits → s.cfg.perm.Nodup →
    (∃ k, s.cfg.w = 2 ^ k) → 1 ≤ s.cfg.idiv → (2 ^ s.cfg.sw - 1) / s.cfg.idiv ≤ 15 →
    s.cfg.sw + Nat.log2 s.cfg.w ≤ s.cfg.sumw → s.cfg.qdw = 8 → s.cfg.nplanes = 8 →
    s.cfg.bcd = Config.bcdTable → 10 ≤ s.cfg.sw →
    ∀ r, step s ≠ .refused r

/-- R39: no step writes a parameter. -/
def Obligations.ParametersNeverChange : Prop :=
  ∀ s t : State, step s = .next t → t.cfg = s.cfg

/-! ### Steps (10_state.md R22–R24) -/

/-- A step runs the decoded command: where it is port `q`'s turn and the word at its head decodes to `i`, the step
is `exec i` on the state with the turn taken and `q` as the issuing port. -/
def Obligations.StepRunsDecodedCommand : Prop :=
  ∀ (s : State) (q : Port) (w : Word) (i : Instr), s.Running →
    s.turn = .port q → (s.stream q).head = some w → decode w = .ok i →
    step s = exec i { s.takeTurn with port := q }

/-- Where the schedule names an agent, that agent's step is the next step; where it is used up, the next round's
first agent's is; a port with nothing to take changes nothing but the schedule. From every state on, the agents
whose turn it is come in a weakly fair order, as R133 and decision D28 assume. The schedule and the rounds are the
model's choice (log entries 4 and 5). -/
def Obligations.StepFollowsSchedule : Prop :=
  (∀ (s : State) (a : Agent) (rest : List Agent), s.schedule = a :: rest →
    step s = agentStep a { s with schedule := rest }) ∧
  (∀ (s : State) (a : Agent) (rest : List Agent), s.schedule = [] →
    Config.freeTurns s.round ++ [fairAgent s.round] = a :: rest →
    step s = agentStep a { s with schedule := rest, round := s.round + 1 }) ∧
  (∀ (s : State) (q : Port) (rest : List Agent), s.Running → s.schedule = .port q :: rest →
    (s.stream q).head = none → step s = .next { s with schedule := rest }) ∧
  (∀ (s t : State) (n : Nat), Host.Core.run core n s = .next t → t.turn = s.order n) ∧
  (∀ (s : State) (a : Agent) (n : Nat), a ≠ .reset → ∃ m, n ≤ m ∧ s.order m = a)

/-- R23, R24, R72: an agent's step moves at most its own port's stream, by at most its head, and only where no fault
is recorded before or after. -/
def Obligations.StreamsAdvanceInOrder : Prop :=
  ∀ (a : Agent) (s t : State) (q : Port), agentStep a s = .next t →
    t.stream q = s.stream q ∨
    (a = .port q ∧ t.stream q = (s.stream q).tail ∧ s.faultCause = 0 ∧ t.faultCause = 0)

/-- R135, and R237, which the spec derives: what each agent may write, resets apart. -/
def Obligations.AgentsWriteOnlyTheirOwn : Prop :=
  ∀ (a : Agent) (s t : State), agentStep a s = .next t → a ≠ .reset →
    (¬ s.SameStorage t ∨ t.wptr ≠ s.wptr ∨ t.respP ≠ s.respP → a = .port .p) ∧
    (t.rptr ≠ s.rptr ∨ ¬ s.SameChecksum t ∨ t.plane ≠ s.plane ∨ t.respM ≠ s.respM → a = .port .m) ∧
    (¬ s.SameWindow t → a = .port .s) ∧
    (t.out ≠ s.out → a = .port .m ∨ a = .port .s) ∧
    (t.wqSync ≠ s.wqSync →
      (s.cfg.syncMode = .gray ∧ a = .syncW) ∨ (s.cfg.syncMode = .direct ∧ a = .port .p)) ∧
    (t.rqSync ≠ s.rqSync →
      (s.cfg.syncMode = .gray ∧ a = .syncR) ∨ (s.cfg.syncMode = .direct ∧ a = .port .m)) ∧
    (t.faultCause ≠ s.faultCause ∨ t.faultPort ≠ s.faultPort ∨ t.faultWord ≠ s.faultWord →
      ∃ q, a = .port q)

/-- R40: no command reads the history. -/
def Obligations.HistoryIsNeverRead : Prop :=
  ∀ (a : Agent) (s t : State), agentStep a s = .next t →
    ∃ u, agentStep a s.forgetHistory = .next u ∧ u.forgetHistory = t.forgetHistory

/-- R64, and R74, which the spec derives from it: what one step adds to `OUT` is nothing, one intensity pair (R200),
one whole flush (R173), one whole initialisation (R174) or one reset marker (R40; that `OUT` is among the histories
that get one is log entry 12); what went before stays. -/
def Obligations.BurstsAreWhole : Prop :=
  ∀ (a : Agent) (s t : State), agentStep a s = .next t →
    t.out = s.out ∨
    (a = .port .s ∧ ∃ x, t.out = s.out ++ [.pair .sample s.cfg.drvIntensityAddr x]) ∨
    (a = .port .m ∧ t.out = s.out ++
      [.pair .flush 1 s.plane[0], .pair .flush 2 s.plane[1], .pair .flush 3 s.plane[2],
       .pair .flush 4 s.plane[3], .pair .flush 5 s.plane[4], .pair .flush 6 s.plane[5],
       .pair .flush 7 s.plane[6], .pair .flush 8 s.plane[7]]) ∨
    (a = .port .m ∧ t.out = s.out ++
      [.pair .init s.cfg.drvDecodeAddr s.cfg.drvDecodeOff,
       .pair .init s.cfg.drvScanlimitAddr s.cfg.drvScanlimitData,
       .pair .init s.cfg.drvTestAddr s.cfg.drvTestOff,
       .pair .init s.cfg.drvShutdownAddr s.cfg.drvShutdownOff]) ∨
    (a = .reset ∧ t.out = s.out ++ [.resetMark])

/-! ### QUEUE (40_byte_queue.md) -/

/-- R120, R121: `Q_APPEND`. -/
def Obligations.QAppendStoresOrDrops : Prop :=
  (∀ d : Byte, decode (0x00#8 ++ d) = .ok (.qAppend d)) ∧
  (∀ (d : Byte) (s : State), s.Running → s.port = .p →
    ((s.wptr + (2 * 2 ^ s.cfg.qaw - bin (s.cfg.qaw + 1) s.rqSync)) % (2 * 2 ^ s.cfg.qaw) =
        2 ^ s.cfg.qaw →
      exec (.qAppend d) s = .next { s with streamP := s.streamP.tail }) ∧
    ((s.wptr + (2 * 2 ^ s.cfg.qaw - bin (s.cfg.qaw + 1) s.rqSync)) % (2 * 2 ^ s.cfg.qaw) ≠
        2 ^ s.cfg.qaw →
      exec (.qAppend d) s = .next
        { s with
          qmem := memWrite (s.wptr % 2 ^ s.cfg.qaw) d s.qmem
          wptr := (s.wptr + 1) % (2 * 2 ^ s.cfg.qaw)
          wqSync := if s.cfg.syncMode = .direct then gray ((s.wptr + 1) % (2 * 2 ^ s.cfg.qaw))
            else s.wqSync
          streamP := s.streamP.tail })) ∧
  CommandExceptions 0x0 [.p] 0x0F00

/-- R122, R121: `Q_POP`. -/
def Obligations.QPopRespondsOrHolds : Prop :=
  decode 0x1000#16 = .ok .qPop ∧
  (∀ s : State, s.Running → s.port = .m →
    (s.rptr = bin (s.cfg.qaw + 1) s.wqSync → exec .qPop s = .next s) ∧
    (s.rptr ≠ bin (s.cfg.qaw + 1) s.wqSync →
      ∀ v, memRead s.qmem (s.rptr % 2 ^ s.cfg.qaw) = some v →
        exec .qPop s = .next
          { s with
            rptr := (s.rptr + 1) % (2 * 2 ^ s.cfg.qaw)
            rqSync := if s.cfg.syncMode = .direct then gray ((s.rptr + 1) % (2 * 2 ^ s.cfg.qaw))
              else s.rqSync
            respM := s.respM ++ [.byte v]
            streamM := s.streamM.tail })) ∧
  CommandExceptions 0x1 [.m] 0x0FFF

/-- R123: `Q_IS_EMPTY`, from the issuing port's own view. -/
def Obligations.QIsEmptyAnswersFromOwnView : Prop :=
  decode 0x2000#16 = .ok .qIsEmpty ∧
  (∀ s : State, s.Running →
    (s.port = .p → exec .qIsEmpty s = .next
      { s with
        respP := s.respP ++ [.bit (if s.wptr = bin (s.cfg.qaw + 1) s.rqSync then 1 else 0)]
        streamP := s.streamP.tail }) ∧
    (s.port = .m → exec .qIsEmpty s = .next
      { s with
        respM := s.respM ++ [.bit (if s.rptr = bin (s.cfg.qaw + 1) s.wqSync then 1 else 0)]
        streamM := s.streamM.tail })) ∧
  CommandExceptions 0x2 [.p, .m] 0x0FFF

/-- R125, R126, R121: the sync agents, which act in gray mode only. -/
def Obligations.SyncAgentsCopyPointers : Prop :=
  ∀ s : State, s.Running →
    (s.cfg.syncMode = .gray →
      agentStep .syncW s = .next { s with wqSync := gray s.wptr } ∧
      agentStep .syncR s = .next { s with rqSync := gray s.rptr }) ∧
    (s.cfg.syncMode = .direct →
      agentStep .syncW s = .next s ∧ agentStep .syncR s = .next s)

/-- R124 (the spec's general knowledge, log entry 15): the Gray code on values of `n + 1` bits, its inverse bit by
bit, and the one-bit change between consecutive values, the last and 0 among them. -/
def Obligations.GrayCodeLaws : Prop :=
  (∀ b : Nat, gray b = b ^^^ (b >>> 1)) ∧
  (∀ n g : Nat, g < 2 ^ (n + 1) →
    bin (n + 1) g < 2 ^ (n + 1) ∧
    (bin (n + 1) g).testBit n = g.testBit n ∧
    ∀ i < n, (bin (n + 1) g).testBit i = ((bin (n + 1) g).testBit (i + 1) ^^ g.testBit i)) ∧
  (∀ n b : Nat, b < 2 ^ (n + 1) → gray b < 2 ^ (n + 1) ∧ bin (n + 1) (gray b) = b) ∧
  (∀ n g : Nat, g < 2 ^ (n + 1) → gray (bin (n + 1) g) = g) ∧
  (∀ n b : Nat, b < 2 ^ (n + 1) →
    ∃ k ≤ n, gray b ^^^ gray ((b + 1) % 2 ^ (n + 1)) = 2 ^ k) ∧
  (List.range 8).map gray = [0b000, 0b001, 0b011, 0b010, 0b110, 0b111, 0b101, 0b100]

/-- R127, R128 (the Gray form of R127 is the spec's general knowledge): the tests in the Gray domain agree with the
binary ones, for pointers and views of their width. -/
def Obligations.GrayDomainTestsAgree : Prop :=
  ∀ s : State, 1 ≤ s.cfg.qaw → s.wptr < s.cfg.ringSize → s.rptr < s.cfg.ringSize →
    s.wqSync < s.cfg.ringSize → s.rqSync < s.cfg.ringSize →
    s.producerFull = s.producerFullGray ∧ s.consumerEmpty = s.consumerEmptyGray

/-- R129 (which the spec derives from R43, R120 and R122): over every run of agents without a reset, from every
state of the invariant, the bytes that were unread and then those accepted are the bytes responded and then those
still unread, in order. From an empty queue, then, the bytes responded are a prefix of the bytes accepted; one
agent's step is the run of one. -/
def Obligations.RunsKeepFifoOrder : Prop :=
  ∀ (as : List Agent) (s t : State), s.Inv → (∀ a ∈ as, a ≠ Agent.reset) → runAgents as s = .next t →
    ∃ rs, t.respM = s.respM ++ rs ∧ s.contents ++ acceptedOver as s = poppedBytes rs ++ t.contents

/-- R130 (which the spec derives from R43 and R127): no append changes a slot that holds an unread byte. -/
def Obligations.OverwriteGuard : Prop :=
  ∀ (d : Byte) (s t : State) (k : Nat), s.Inv → exec (.qAppend d) s = .next t → k < s.occupancy →
    memRead t.qmem (s.slotOf (s.rptr + k)) = memRead s.qmem (s.slotOf (s.rptr + k))

/-- R132 (which the spec derives from R43, R120, R122 and R123): the directions in which the views may be stale; in
direct mode they are exact. -/
def Obligations.ViewsAreStaleOneWay : Prop :=
  ∀ s : State, s.Inv →
    s.occupancy ≤ s.producerOccupancy ∧
    (s.producerFull = false → s.occupancy < s.cfg.capacity) ∧
    s.consumerOccupancy ≤ s.occupancy ∧
    (s.consumerEmpty = false → s.occupancy ≠ 0) ∧
    (s.emptyOn .p = true → s.occupancy = 0) ∧
    (s.emptyOn .m = false → s.occupancy ≠ 0) ∧
    (s.cfg.syncMode = .direct →
      s.producerOccupancy = s.occupancy ∧ s.consumerOccupancy = s.occupancy ∧
      (s.emptyOn .p = true ↔ s.occupancy = 0) ∧ (s.emptyOn .m = true ↔ s.occupancy = 0))

/-- R43 (which the spec derives from R120–R122, R125 and R126): in every run from reset each view is a value its
pointer held at the end of some earlier part of the run, whatever the programs on the ports. It rests on the coherent
copy that the model presumes of a sync agent's step (R134, log entry 15). -/
def Obligations.ViewsHoldEarlierPointers : Prop :=
  ∀ (c : Config) (g : Program) (as : List Agent) (t : State), c.legal = true →
    (∀ a ∈ as, a ≠ Agent.reset) → runAgents as ((State.resetWith c).load g) = .next t →
    (∃ n u, runAgents (as.take n) ((State.resetWith c).load g) = .next u ∧ t.writeView = u.wptr) ∧
    (∃ n u, runAgents (as.take n) ((State.resetWith c).load g) = .next u ∧ t.readView = u.rptr)

/-- R133: a pop at port M's head completes at the first step of port M after the consumer's view shows a byte; on an
empty queue it holds over every run in which no byte is accepted and no reset occurs. -/
def Obligations.VisibleByteIsPoppedNext : Prop :=
  (∀ s : State, s.Running → s.Inv → s.streamM.head = some 0x1000#16 → s.consumerOccupancy ≠ 0 →
    ∃ v t, agentStep (.port .m) s = .next t ∧ t.respM = s.respM ++ [.byte v] ∧
      t.streamM = s.streamM.tail ∧ s.contents.head? = some v) ∧
  (∀ (as : List Agent) (s t : State), s.Inv → s.streamM.head = some 0x1000#16 → s.occupancy = 0 →
    (∀ a ∈ as, a ≠ Agent.reset) → acceptedOver as s = [] → runAgents as s = .next t →
    t.streamM = s.streamM ∧ t.respM = s.respM)

/-- R133, with the fairness it assumes (decision D28, log entry 4): in gray mode, with a byte in the queue and a pop
at port M's head, every weakly fair order of agents without a reset comes to a step after which the pop has
responded that byte, unless another port's command has recorded a fault. Of the fairness only that of `AG_SYNC_W`
and of port M is needed. -/
def Obligations.FairScheduleCompletesPop : Prop :=
  ∀ (f : Nat → Agent) (s : State), FairForPop f → s.Running → s.Inv →
    s.cfg.syncMode = .gray → s.streamM.head = some 0x1000#16 → s.occupancy ≠ 0 →
    ∃ n t, runAgents ((List.range n).map f) s = .next t ∧
      (t.faultCause ≠ 0 ∨
        ∃ v, s.contents.head? = some v ∧ t.respM = s.respM ++ [.byte v] ∧ t.streamM = s.streamM.tail)

/-! ### CKSUM (41_checksum.md) -/

/-- R150: `CK_RESET`. -/
def Obligations.CkResetClearsPair : Prop :=
  decode 0x3000#16 = .ok .ckReset ∧
  (∀ s : State, s.Running → s.port = .m →
    exec .ckReset s = .next { s with ckA := 0, ckB := 0, streamM := s.streamM.tail }) ∧
  CommandExceptions 0x3 [.m] 0x0FFF

/-- R151, R154: `CK_UPDATE`, both sums modulo 256, the second adding the first's new value. -/
def Obligations.CkUpdateFoldsByte : Prop :=
  (∀ d : Byte, decode (0x40#8 ++ d) = .ok (.ckUpdate d)) ∧
  (∀ (d : Byte) (s : State), s.Running → s.port = .m →
    ∃ a b : Byte, exec (.ckUpdate d) s = .next { s with ckA := a, ckB := b, streamM := s.streamM.tail } ∧
      a.toNat = (s.ckA.toNat + d.toNat) % 256 ∧ b.toNat = (s.ckB.toNat + a.toNat) % 256) ∧
  CommandExceptions 0x4 [.m] 0x0F00

/-- R152: `CK_READ` responds `CK_B` in bits 15:8 and `CK_A` in bits 7:0 and writes nothing. -/
def Obligations.CkReadRespondsPair : Prop :=
  decode 0x5000#16 = .ok .ckRead ∧
  (∀ s : State, s.Running → s.port = .m →
    ∃ v : BitVec 16, exec .ckRead s = .next
        { s with respM := s.respM ++ [.word v], streamM := s.streamM.tail } ∧
      v.toNat = 256 * s.ckB.toNat + s.ckA.toNat) ∧
  CommandExceptions 0x5 [.m] 0x0FFF

/-- R153 (which the spec derives from R150 and R151): the commands `CK_RESET` and one `CK_UPDATE` for each byte,
taken by port M step after step, leave the fold of the bytes in the pair, and the fold has the closed form. -/
def Obligations.ChecksumIsTheFold : Prop :=
  (∀ ab : Byte × Byte, checksumFold ab [] = ab) ∧
  (∀ (a b x : Byte) (xs : List Byte),
    checksumFold (a, b) (x :: xs) = checksumFold (a + x, b + a + x) xs) ∧
  (∀ (s : State) (xs : List Byte) (later : CommandStream) (rest : List Agent), s.Running →
    Host.Core.run core (xs.length + 1) (s.withCommandsM (.ckReset :: ckUpdateMany xs) later rest) =
      .next
        { s with
          ckA := (checksumFold (0, 0) xs).1, ckB := (checksumFold (0, 0) xs).2
          streamM := later, schedule := rest, port := .m }) ∧
  (∀ xs : List Byte,
    (checksumFold (0, 0) xs).1.toNat = (xs.map BitVec.toNat).sum % 256 ∧
    (checksumFold (0, 0) xs).2.toNat =
      ((List.range xs.length).map fun i => (xs.length - i) * (xs.getD i 0).toNat).sum % 256)

/-- R104, R156: the commands of `CK_FRAME` respond the checksum of the frame's class, id, length and payload. -/
def Obligations.CkFrameRespondsFrameChecksum : Prop :=
  ∀ (s : State) (cls id : Byte) (payload : List Byte) (cmds : List Instr) (later : CommandStream)
    (rest : List Agent), s.Running → ckFrame cls id payload = some cmds →
    ∃ t, Host.Core.run core cmds.length (s.withCommandsM cmds later rest) = .next t ∧
      t.streamM = later ∧ t.out = s.out ∧
      t.respM = s.respM ++
        [.word ((checksumFold (0, 0) (frameCovered cls id payload)).2 ++
          (checksumFold (0, 0) (frameCovered cls id payload)).1)] ∧
      (frameBytes cls id payload t.ckA t.ckB).length = 8 + payload.length

/-! ### TPOSE (42_plane_transposer.md) -/

/-- R170: `TP_SET_DIGIT`. -/
def Obligations.TpSetDigitWritesColumn : Prop :=
  (∀ (i : Index) (m : Byte), decode (0x6#4 ++ i ++ m) = .ok (.tpSetDigit i m)) ∧
  (∀ (i : Index) (m : Byte) (s : State), s.Running → s.port = .m →
    (1 ≤ i.toNat → i.toNat ≤ s.cfg.digits →
      ∃ (p : Fin 8) (pl : Vector Byte 8), s.cfg.perm[i.toNat - 1]? = some p ∧
        exec (.tpSetDigit i m) s = .next { s with plane := pl, streamM := s.streamM.tail } ∧
        ∀ k b : Fin 8, pl[k].getLsbD b.val =
          if b = p then m.getLsbD k.val else s.plane[k].getLsbD b.val) ∧
    (i.toNat = 0 ∨ s.cfg.digits < i.toNat →
      exec (.tpSetDigit i m) s = .next
        { s with faultCause := 4, faultPort := 1, faultWord := 0x6#4 ++ i ++ m })) ∧
  PortException 0x6 [.m]

/-- R171, R172: `TP_SET_DIGIT_BCD`, with the pattern table; its codes 10 to 15 are the spec's decisions D12 and D13
(log entry 14). -/
def Obligations.TpSetDigitBcdWritesPattern : Prop :=
  (∀ (i : Index) (v : Byte), decode (0x7#4 ++ i ++ v) = .ok (.tpSetDigitBcd i v)) ∧
  (∀ (i : Index) (v : Byte) (s : State), s.Running → s.port = .m →
    (1 ≤ i.toNat → i.toNat ≤ s.cfg.digits → v.extractLsb' 4 3 = 0 →
      ∃ (p : Fin 8) (pl : Vector Byte 8) (pat : Byte), s.cfg.perm[i.toNat - 1]? = some p ∧
        ([0x3F, 0x06, 0x5B, 0x4F, 0x66, 0x6D, 0x7D, 0x07, 0x7F, 0x6F, 0x40, 0x79, 0x76, 0x38, 0x73,
          0x00] : List Byte)[v.toNat % 16]? = some pat ∧
        exec (.tpSetDigitBcd i v) s = .next { s with plane := pl, streamM := s.streamM.tail } ∧
        ∀ k b : Fin 8, pl[k].getLsbD b.val =
          if b = p then (if k = 7 ∧ 128 ≤ v.toNat then true else pat.getLsbD k.val)
          else s.plane[k].getLsbD b.val) ∧
    (i.toNat = 0 ∨ s.cfg.digits < i.toNat →
      exec (.tpSetDigitBcd i v) s = .next
        { s with faultCause := 4, faultPort := 1, faultWord := 0x7#4 ++ i ++ v }) ∧
    (1 ≤ i.toNat → i.toNat ≤ s.cfg.digits → v.extractLsb' 4 3 ≠ 0 →
      exec (.tpSetDigitBcd i v) s = .next
        { s with faultCause := 5, faultPort := 1, faultWord := 0x7#4 ++ i ++ v })) ∧
  PortException 0x7 [.m]

/-- R173: `TP_FLUSH`. -/
def Obligations.TpFlushEmitsPlanes : Prop :=
  decode 0x9000#16 = .ok .tpFlush ∧
  (∀ s : State, s.Running → s.port = .m →
    exec .tpFlush s = .next
      { s with
        out := s.out ++
          [.pair .flush 1 s.plane[0], .pair .flush 2 s.plane[1], .pair .flush 3 s.plane[2],
           .pair .flush 4 s.plane[3], .pair .flush 5 s.plane[4], .pair .flush 6 s.plane[5],
           .pair .flush 7 s.plane[6], .pair .flush 8 s.plane[7]]
        streamM := s.streamM.tail }) ∧
  CommandExceptions 0x9 [.m] 0x0FFF

/-- R174: `TP_INIT`. -/
def Obligations.TpInitEmitsStartUp : Prop :=
  decode 0xA000#16 = .ok .tpInit ∧
  (∀ s : State, s.Running → s.port = .m →
    exec .tpInit s = .next
      { s with
        out := s.out ++
          [.pair .init s.cfg.drvDecodeAddr s.cfg.drvDecodeOff,
           .pair .init s.cfg.drvScanlimitAddr s.cfg.drvScanlimitData,
           .pair .init s.cfg.drvTestAddr s.cfg.drvTestOff,
           .pair .init s.cfg.drvShutdownAddr s.cfg.drvShutdownOff]
        streamM := s.streamM.tail }) ∧
  CommandExceptions 0xA [.m] 0x0FFF

/-- R175: `TP_CLEAR`. -/
def Obligations.TpClearZeroesPlanes : Prop :=
  decode 0x8000#16 = .ok .tpClear ∧
  (∀ s : State, s.Running → s.port = .m →
    exec .tpClear s = .next
      { s with plane := #v[0, 0, 0, 0, 0, 0, 0, 0], streamM := s.streamM.tail }) ∧
  CommandExceptions 0x8 [.m] 0x0FFF

/-- R176: `TP_SHOW_NO_SIGNAL`. -/
def Obligations.TpShowNoSignalLightsOnePoint : Prop :=
  (∀ t : Byte, decode (0xB0#8 ++ t) = .ok (.tpShowNoSignal t)) ∧
  (∀ (t : Byte) (s : State), s.Running → s.port = .m →
    ∃ (p : Fin 8) (pl : Vector Byte 8), s.cfg.perm[t.toNat % s.cfg.digits]? = some p ∧
      exec (.tpShowNoSignal t) s = .next { s with plane := pl, streamM := s.streamM.tail } ∧
      ∀ k b : Fin 8, pl[k].getLsbD b.val = decide (k = 7 ∧ b = p)) ∧
  CommandExceptions 0xB [.m] 0x0F00

/-- R177 (which the spec derives from R170 and R171): after either digit command completes with mask `m`, the
digit's column reads `m` and every other digit's column is as it was. -/
def Obligations.PlanesHoldTheTranspose : Prop :=
  ∀ (i : Index) (v m : Byte) (c : Instr) (s t : State),
    (c = .tpSetDigit i m ∨ (c = .tpSetDigitBcd i v ∧ m = bcdMask s.cfg v)) →
    s.Running → exec c s = .next t → t.faultCause = 0 →
    ((List.finRange 8).map fun k => (t.plane[k].getLsbD (s.cfg.permAt i.toNat)).toNat * 2 ^ k.val).sum =
      m.toNat ∧
    ∀ j, 1 ≤ j → j ≤ s.cfg.digits → j ≠ i.toNat →
      ∀ k : Fin 8, t.plane[k].getLsbD (s.cfg.permAt j) = s.plane[k].getLsbD (s.cfg.permAt j)

/-- R105: in a block of six digits (or more) the commands of `TP_SHOW_HMS` leave the six digits' patterns in the
columns and send the planes. -/
def Obligations.ShowHmsShowsDigits : Prop :=
  ∀ (x : State) (h m s : Nat) (cmds : List Instr) (later : CommandStream) (rest : List Agent),
    x.Running → 6 ≤ x.cfg.digits → tpShowHms h m s = some cmds →
    ∃ t, Host.Core.run core 7 (x.withCommandsM cmds later rest) = .next t ∧ t.streamM = later ∧
      t.faultCause = 0 ∧
      columnOf t.plane (x.cfg.permAt 1) = Config.bcdTable.getD (h / 10) 0 ∧
      columnOf t.plane (x.cfg.permAt 2) = Config.bcdTable.getD (h % 10) 0 ∧
      columnOf t.plane (x.cfg.permAt 3) = Config.bcdTable.getD (m / 10) 0 ∧
      columnOf t.plane (x.cfg.permAt 4) = Config.bcdTable.getD (m % 10) 0 ∧
      columnOf t.plane (x.cfg.permAt 5) = Config.bcdTable.getD (s / 10) 0 ∧
      columnOf t.plane (x.cfg.permAt 6) = Config.bcdTable.getD (s % 10) 0 ∧
      t.out = x.out ++ (flushPairs t.plane).map fun y => OutEvent.pair .flush y.1 y.2

/-- R254, R255: once a `TP_INIT` and then a `TP_FLUSH` have been sent, the display shows the planes, whatever went
before and whatever the driver's addresses are; it stays unknown over every step but such a flush; right after a
reset marker what it shows is unknown (log entry 13). -/
def Obligations.DisplayKnownAfterInitAndFlush : Prop :=
  (∀ (s t u : State) (k : Fin 8), s.Running → s.port = .m → exec .tpInit s = .next t →
    exec .tpFlush t = .next u → shownPlane u.out k = some s.plane[k]) ∧
  (∀ (h : List OutEvent) (k : Fin 8), startUp h ≠ .shown → shownPlane h k = none) ∧
  (∀ (a : Agent) (s t : State), agentStep a s = .next t → startUp s.out ≠ .shown →
    startUp t.out = .shown →
    a = .port .m ∧ s.streamM.head = some 0x9000#16 ∧ startUp s.out = .initialised) ∧
  (∀ (a : Agent) (s t : State), agentStep a s = .next t → startUp s.out = .unknown →
    startUp t.out ≠ .unknown → a = .port .m ∧ s.streamM.head = some 0xA000#16) ∧
  (∀ (s t : State) (k : Fin 8), agentStep .reset s = .next t → shownPlane t.out k = none)

/-! ### MAVG (43_moving_average.md) -/

/-- R200: `MA_SAMPLE`, in every state whose window is as R33, R35 and R44 say. -/
def Obligations.MaSampleIntegrates : Prop :=
  (∀ r : Sample, decode (0b110000#6 ++ r) = .ok (.maSample r)) ∧
  (∀ (r : Sample) (s : State), s.Running → s.port = .s → s.WindowInv →
    exec (.maSample r) s = .next
      { s with
        sum := s.sum - (s.win.getD s.widx 0).toNat + r.toNat
        win := s.win.set s.widx r
        widx := (s.widx + 1) % s.cfg.w
        out := s.out ++ [.pair .sample s.cfg.drvIntensityAddr
          (BitVec.ofNat 8
            ((s.sum - (s.win.getD s.widx 0).toNat + r.toNat) / s.cfg.w / s.cfg.idiv))]
        streamS := s.streamS.tail } ∧
    (s.win.getD s.widx 0).toNat ≤ s.sum ∧
    (s.sum - (s.win.getD s.widx 0).toNat + r.toNat) / s.cfg.w / s.cfg.idiv ≤ 15) ∧
  CommandExceptions 0xC [.s] 0x0C00

/-- `MA_SAMPLE` completes in every running state of port S, those that no run reaches too; there `SUM` wraps in its
`SUMW` bits, which is the model's choice (log entry 10). -/
def Obligations.MaSampleAlwaysCompletes : Prop :=
  ∀ (r : Sample) (s : State), s.Running → s.port = .s →
    ∃ sum, exec (.maSample r) s = .next
      { s with
        sum := sum, win := s.win.set s.widx r, widx := (s.widx + 1) % s.cfg.w
        out := s.out ++ [.pair .sample s.cfg.drvIntensityAddr (BitVec.ofNat 8 (sum / s.cfg.w / s.cfg.idiv))]
        streamS := s.streamS.tail } ∧
      sum < 2 ^ s.cfg.sumw

/-- R201, R202 (which the spec derives from R44 and R200): after `W` samples or more, taken by port S step after
step from any state whose window is as R44 says, the window holds exactly the last `W`, `SUM` is their sum and the
last intensity sent is its average's. -/
def Obligations.WindowHoldsLastSamples : Prop :=
  ∀ (s : State) (vs : List Sample) (later : CommandStream) (rest : List Agent), s.Running → s.WindowInv →
    s.cfg.w ≤ vs.length →
    ∃ t, Host.Core.run core vs.length (s.withSamples vs later rest) = .next t ∧
      t.win.Perm (vs.drop (vs.length - s.cfg.w)) ∧
      t.sum = ((vs.drop (vs.length - s.cfg.w)).map BitVec.toNat).sum ∧
      t.widx = (s.widx + vs.length) % s.cfg.w ∧
      t.out.getLast? = some (.pair .sample s.cfg.drvIntensityAddr
        (BitVec.ofNat 8
          (((vs.drop (vs.length - s.cfg.w)).map BitVec.toNat).sum / s.cfg.w / s.cfg.idiv)))

/-- R203 (which the spec derives from R41 and R200): after fewer than `W` samples from reset the average counts the
empty slots as zeros. -/
def Obligations.WarmUpCountsZeros : Prop :=
  ∀ (c : Config) (vs : List Sample) (later : CommandStream) (rest : List Agent), c.legal = true →
    vs.length < c.w →
    ∃ t, Host.Core.run core vs.length ((State.resetWith c).withSamples vs later rest) = .next t ∧
      t.win = vs ++ List.replicate (c.w - vs.length) 0 ∧ t.widx = vs.length ∧
      average c t.sum = (vs.map BitVec.toNat).sum / c.w

/-- R204 (which the spec derives from R200): with `W` = 16 and `IDIV` = 64 the intensity is the average divided by
64, one of 16 steps. -/
def Obligations.IntensityHasSixteenSteps : Prop :=
  ∀ (c : Config) (sum n : Nat), c.w = 16 → c.idiv = 64 → n ≤ 15 →
    64 * n ≤ average c sum → average c sum ≤ 64 * n + 63 → (intensity c sum).toNat = n

/-! ### Frames -/

/-- `Q_APPEND` stores at most the slot `WPTR mod N`; every other element of QMEM reads as before, and so does all of
it where the producer sees the queue full. It writes `WPTR`, in direct mode `WQ_SYNC`, and port P's stream. -/
def Obligations.AppendFrame : Prop :=
  ∀ (d : Byte) (s t : State), exec (.qAppend d) s = .next t →
    (∀ a, a ≠ s.slotOf s.wptr → memRead t.qmem a = memRead s.qmem a) ∧
    (s.producerFull = true → s.SameStorage t ∧ t.wptr = s.wptr) ∧
    t.rptr = s.rptr ∧ t.rqSync = s.rqSync ∧ (s.cfg.syncMode = .gray → t.wqSync = s.wqSync) ∧
    s.SameChecksum t ∧ t.plane = s.plane ∧ s.SameWindow t ∧ s.SameSetting t ∧ s.StreamsMoved t ∧
    t.out = s.out ∧ t.respP = s.respP ∧ t.respM = s.respM ∧ s.FaultsKeptOrEntered t

/-- `Q_POP` stores nothing; it writes `RPTR`, in direct mode `RQ_SYNC`, a response and port M's stream. -/
def Obligations.PopFrame : Prop :=
  ∀ s t : State, exec .qPop s = .next t →
    s.SameStorage t ∧ t.wptr = s.wptr ∧ t.wqSync = s.wqSync ∧
    (s.cfg.syncMode = .gray → t.rqSync = s.rqSync) ∧
    s.SameChecksum t ∧ t.plane = s.plane ∧ s.SameWindow t ∧ s.SameSetting t ∧ s.StreamsMoved t ∧
    t.out = s.out ∧ t.respP = s.respP ∧ s.FaultsKeptOrEntered t

/-- `Q_IS_EMPTY` and `CK_READ` write no hardware state but the fault latch on a fault (R67); `CK_RESET` and
`CK_UPDATE` write the checksum pair. -/
def Obligations.ReadAndChecksumFrame : Prop :=
  ∀ (i : Instr) (s t : State),
    (i = .qIsEmpty ∨ i = .ckRead ∨ i = .ckReset ∨ ∃ d, i = .ckUpdate d) → exec i s = .next t →
    s.SameStorage t ∧ s.SamePointers t ∧ t.plane = s.plane ∧ s.SameWindow t ∧ s.SameSetting t ∧
    s.StreamsMoved t ∧ t.out = s.out ∧ s.FaultsKeptOrEntered t ∧
    (i = .qIsEmpty ∨ i = .ckRead → s.SameChecksum t) ∧
    (i ≠ .qIsEmpty → t.respP = s.respP) ∧
    (i ≠ .qIsEmpty → i ≠ .ckRead → t.respM = s.respM)

/-- The TPOSE commands write the planes (the two digit commands, clear and no-signal) or `OUT` (flush and
initialisation), never both, and nothing else of the block (R157, R178). -/
def Obligations.TransposerFrame : Prop :=
  ∀ (i : Instr) (s t : State),
    ((∃ k m, i = .tpSetDigit k m) ∨ (∃ k v, i = .tpSetDigitBcd k v) ∨ i = .tpClear ∨ i = .tpFlush ∨
      i = .tpInit ∨ ∃ v, i = .tpShowNoSignal v) → exec i s = .next t →
    s.SameStorage t ∧ s.SamePointers t ∧ s.SameChecksum t ∧ s.SameWindow t ∧ s.SameSetting t ∧
    s.StreamsMoved t ∧ t.respP = s.respP ∧ t.respM = s.respM ∧ s.FaultsKeptOrEntered t ∧
    (i = .tpFlush ∨ i = .tpInit → t.plane = s.plane) ∧
    (i ≠ .tpFlush → i ≠ .tpInit → t.out = s.out)

/-- `MA_SAMPLE` writes the window, its sum and index, and `OUT`; the reserved opcodes write only the fault latch. -/
def Obligations.SampleAndReservedFrame : Prop :=
  ∀ (i : Instr) (s t : State),
    ((∃ r, i = .maSample r) ∨ (∃ x, i = .reservedD x) ∨ (∃ x, i = .reservedE x) ∨
      ∃ x, i = .reservedF x) → exec i s = .next t →
    s.SameStorage t ∧ s.SamePointers t ∧ s.SameChecksum t ∧ t.plane = s.plane ∧ s.SameSetting t ∧
    s.StreamsMoved t ∧ t.respP = s.respP ∧ t.respM = s.respM ∧ s.FaultsKeptOrEntered t ∧
    ((∀ r, i ≠ .maSample r) → s.SameWindow t ∧ t.out = s.out ∧ t.stream s.port = s.stream s.port)
end

