-- ==== Sys2Proof/Laws/Display.lean ====
section
/-! SUPPORT. What a history followed by another says of the display driver (70_reset_and_hazards.md R254), and the
fairness a pop needs (40_byte_queue.md R133). -/

namespace Sys2Proof.Machine

@[simp] theorem startUp_nil : startUp [] = .unknown := rfl

theorem startUp_append (h k : List OutEvent) : startUp (h ++ k) = k.foldl startUpEvent (startUp h) :=
  List.foldl_append

theorem driverRegister_append (h k : List OutEvent) (a : Byte) :
    driverRegister (h ++ k) a = k.foldl (driverEvent a) (driverRegister h a) :=
  List.foldl_append

/-- A reset marker: nothing is known of the display. -/
@[simp] theorem startUp_resetMark (h : List OutEvent) : startUp (h ++ [.resetMark]) = .unknown := by
  simp [startUp_append, startUpEvent]

/-- An intensity pair does not move the start-up, whatever its address is. -/
@[simp] theorem startUp_sample (h : List OutEvent) (a d : Byte) :
    startUp (h ++ [.pair .sample a d]) = startUp h := by
  simp [startUp_append, startUpEvent]

/-- A weakly fair order without a reset is fair enough for a pop. -/
theorem WeaklyFair.forPop {f : Nat → Agent} (h : WeaklyFair f) (hr : ∀ n, f n ≠ .reset) : FairForPop f :=
  ⟨h .syncW (by decide), h (.port .m) (by decide), hr⟩

end Sys2Proof.Machine
end

