-- ==== Sys2Proof/Laws/Fields.lean ====
section
/-! SUPPORT. The fields of a word put together from its fields (30_encoding.md R91), the opcode of each command's word
and the ports it is accepted on (R95). -/

namespace Sys2Proof

theorem fieldOp_append_rest (x : BitVec 4) (y : BitVec 12) : fieldOp (x ++ y) = x :=
  BitVec.extractLsb'_append_eq_left

theorem fieldRest_append_rest (x : BitVec 4) (y : BitVec 12) : fieldRest (x ++ y) = y := by
  apply BitVec.eq_of_getLsbD_eq
  intro i hi
  simp only [fieldRest, BitVec.getLsbD_extractLsb', BitVec.getLsbD_append]
  simp [hi]

theorem fieldOp_append (x y : BitVec 4) (z : Byte) : fieldOp (x ++ y ++ z) = x := by
  apply BitVec.eq_of_getLsbD_eq
  intro i hi
  simp only [fieldOp, BitVec.getLsbD_extractLsb', BitVec.getLsbD_append]
  rw [if_neg (by omega), if_neg (by omega), show 12 + i - 8 - 4 = i by omega]
  simp [hi]

theorem fieldA_append (x y : BitVec 4) (z : Byte) : fieldA (x ++ y ++ z) = y := by
  apply BitVec.eq_of_getLsbD_eq
  intro i hi
  simp only [fieldA, BitVec.getLsbD_extractLsb', BitVec.getLsbD_append]
  simp [hi]

theorem fieldD_append (x y : BitVec 4) (z : Byte) : fieldD (x ++ y ++ z) = z := by
  apply BitVec.eq_of_getLsbD_eq
  intro i hi
  simp only [fieldD, BitVec.getLsbD_extractLsb', BitVec.getLsbD_append]
  simp [hi]

theorem fieldOp_append_sample (x : BitVec 4) (y : BitVec 2) (z : Sample) : fieldOp (x ++ y ++ z) = x := by
  apply BitVec.eq_of_getLsbD_eq
  intro i hi
  simp only [fieldOp, BitVec.getLsbD_extractLsb', BitVec.getLsbD_append]
  rw [if_neg (by omega), if_neg (by omega), show 12 + i - 10 - 2 = i by omega]
  simp [hi]

theorem fieldSample_append (x : BitVec 4) (y : BitVec 2) (z : Sample) :
    fieldSample (x ++ y ++ z) = z := by
  apply BitVec.eq_of_getLsbD_eq
  intro i hi
  simp only [fieldSample, BitVec.getLsbD_extractLsb', BitVec.getLsbD_append]
  simp [hi]

/-! The opcode of each command's word. -/

@[simp] theorem fieldOp_encode_qAppend (d : Byte) : fieldOp (encode (.qAppend d)) = 0x0#4 :=
  fieldOp_append _ _ _
@[simp] theorem fieldOp_encode_qPop : fieldOp (encode .qPop) = 0x1#4 := by decide
@[simp] theorem fieldOp_encode_qIsEmpty : fieldOp (encode .qIsEmpty) = 0x2#4 := by decide
@[simp] theorem fieldOp_encode_ckReset : fieldOp (encode .ckReset) = 0x3#4 := by decide
@[simp] theorem fieldOp_encode_ckUpdate (d : Byte) : fieldOp (encode (.ckUpdate d)) = 0x4#4 :=
  fieldOp_append _ _ _
@[simp] theorem fieldOp_encode_ckRead : fieldOp (encode .ckRead) = 0x5#4 := by decide
@[simp] theorem fieldOp_encode_tpSetDigit (i : Index) (m : Byte) :
    fieldOp (encode (.tpSetDigit i m)) = 0x6#4 := fieldOp_append _ _ _
@[simp] theorem fieldOp_encode_tpSetDigitBcd (i : Index) (v : Byte) :
    fieldOp (encode (.tpSetDigitBcd i v)) = 0x7#4 := fieldOp_append _ _ _
@[simp] theorem fieldOp_encode_tpClear : fieldOp (encode .tpClear) = 0x8#4 := by decide
@[simp] theorem fieldOp_encode_tpFlush : fieldOp (encode .tpFlush) = 0x9#4 := by decide
@[simp] theorem fieldOp_encode_tpInit : fieldOp (encode .tpInit) = 0xA#4 := by decide
@[simp] theorem fieldOp_encode_tpShowNoSignal (t : Byte) :
    fieldOp (encode (.tpShowNoSignal t)) = 0xB#4 := fieldOp_append _ _ _
@[simp] theorem fieldOp_encode_maSample (r : Sample) : fieldOp (encode (.maSample r)) = 0xC#4 :=
  fieldOp_append_sample _ _ _
@[simp] theorem fieldOp_encode_reservedD (x : BitVec 12) : fieldOp (encode (.reservedD x)) = 0xD#4 :=
  fieldOp_append_rest _ _
@[simp] theorem fieldOp_encode_reservedE (x : BitVec 12) : fieldOp (encode (.reservedE x)) = 0xE#4 :=
  fieldOp_append_rest _ _
@[simp] theorem fieldOp_encode_reservedF (x : BitVec 12) : fieldOp (encode (.reservedF x)) = 0xF#4 :=
  fieldOp_append_rest _ _

/-! The ports of each opcode (R95). -/

@[simp] theorem opcodePorts_0 : opcodePorts 0x0#4 = [.p] := rfl
@[simp] theorem opcodePorts_1 : opcodePorts 0x1#4 = [.m] := rfl
@[simp] theorem opcodePorts_2 : opcodePorts 0x2#4 = [.p, .m] := rfl
@[simp] theorem opcodePorts_3 : opcodePorts 0x3#4 = [.m] := rfl
@[simp] theorem opcodePorts_4 : opcodePorts 0x4#4 = [.m] := rfl
@[simp] theorem opcodePorts_5 : opcodePorts 0x5#4 = [.m] := rfl
@[simp] theorem opcodePorts_6 : opcodePorts 0x6#4 = [.m] := rfl
@[simp] theorem opcodePorts_7 : opcodePorts 0x7#4 = [.m] := rfl
@[simp] theorem opcodePorts_8 : opcodePorts 0x8#4 = [.m] := rfl
@[simp] theorem opcodePorts_9 : opcodePorts 0x9#4 = [.m] := rfl
@[simp] theorem opcodePorts_A : opcodePorts 0xA#4 = [.m] := rfl
@[simp] theorem opcodePorts_B : opcodePorts 0xB#4 = [.m] := rfl
@[simp] theorem opcodePorts_C : opcodePorts 0xC#4 = [.s] := rfl
@[simp] theorem opcodePorts_D : opcodePorts 0xD#4 = [.p, .m, .s] := rfl
@[simp] theorem opcodePorts_E : opcodePorts 0xE#4 = [.p, .m, .s] := rfl
@[simp] theorem opcodePorts_F : opcodePorts 0xF#4 = [.p, .m, .s] := rfl

end Sys2Proof
end

