-- ==== Sys2Proof/Laws/Gray.lean ====
section
/-! SUPPORT. Bounds of the Gray code and its inverse (40_byte_queue.md R124), and the arithmetic of the pointer
circle (10_state.md R26, R42). -/

namespace Sys2Proof.Machine

/-- A Gray code has the width of its value. -/
theorem gray_lt {n b : Nat} (h : b < 2 ^ n) : gray b < 2 ^ n := by
  refine Nat.xor_lt_two_pow h (Nat.lt_of_le_of_lt ?_ h)
  rw [Nat.shiftRight_eq_div_pow]
  exact Nat.div_le_self _ _

/-- The inverse has the width it is given. -/
theorem bin_lt (n g : Nat) : bin n g < 2 ^ n := by
  induction n generalizing g with
  | zero => simp [bin]
  | succ n ih =>
    have h1 := ih (g >>> 1)
    have h2 : (bin n (g >>> 1) % 2) ^^^ (g % 2) < 2 ^ 1 :=
      Nat.xor_lt_two_pow (by omega) (by omega)
    rw [bin]
    omega

@[simp] theorem gray_zero : gray 0 = 0 := rfl

@[simp] theorem bin_zero_code (n : Nat) : bin n 0 = 0 := by
  induction n with
  | zero => rfl
  | succ n ih => simp [bin, ih]

/-- The difference on the circle, for values below its size. -/
theorem ringSub_of_lt {m a b : Nat} (ha : a < m) (hb : b < m) :
    ringSub m a b = if b ≤ a then a - b else a + m - b := by
  unfold ringSub
  split
  · have : a + (m - b) = a - b + m := by omega
    rw [this, Nat.add_mod_right, Nat.mod_eq_of_lt (by omega)]
  · rw [Nat.mod_eq_of_lt (by omega)]
    omega

/-- The successor on the circle. -/
theorem ringNext_of_lt {m a : Nat} (ha : a < m) :
    ringNext m a = if a + 1 = m then 0 else a + 1 := by
  unfold ringNext
  split
  · rename_i h
    rw [h, Nat.mod_self]
  · exact Nat.mod_eq_of_lt (by omega)

theorem ringNext_lt {m a : Nat} (hm : 0 < m) : ringNext m a < m := Nat.mod_lt _ hm

theorem Config_capacity_pos (c : Config) : 0 < c.capacity := Nat.pow_pos (by decide)

theorem Config_ringSize_pos (c : Config) : 0 < c.ringSize := by
  have := Config_capacity_pos c
  unfold Config.ringSize
  omega

/-- The circle has `2 ^ (QAW + 1)` values. -/
theorem Config_ringSize_eq (c : Config) : c.ringSize = 2 ^ (c.qaw + 1) := by
  rw [Config.ringSize, Config.capacity, Nat.pow_succ, Nat.mul_comm]

end Sys2Proof.Machine
end

