-- ==== Sys2Proof/Laws/Planes.lean ====
section
/-! SUPPORT. The laws of the planes: which bit each write changes (42_plane_transposer.md R170, R175, R176). -/

namespace Sys2Proof.Machine

/-- One bit written, the other seven kept. -/
theorem getLsbD_setBit (v : Byte) (p b : Fin 8) (x : Bool) :
    (setBit v p x).getLsbD b.val = if b = p then x else v.getLsbD b.val := by
  revert b p
  cases x <;> simp only [setBit] <;> decide +revert

@[simp] theorem getElem_planesOf (f : Fin 8 → Byte) (k : Fin 8) : (planesOf f)[k] = f k := by
  fin_cases k <;> rfl

/-- A column write changes the bits of that column and no other (R170). -/
theorem getLsbD_setColumn (pl : Vector Byte 8) (p : Fin 8) (m : Byte) (k b : Fin 8) :
    (setColumn pl p m)[k].getLsbD b.val = if b = p then m.getLsbD k.val else pl[k].getLsbD b.val := by
  rw [setColumn, getElem_planesOf, getLsbD_setBit]

@[simp] theorem getElem_zeroPlanes (k : Fin 8) : zeroPlanes[k] = 0 := by
  rw [zeroPlanes, getElem_planesOf]

/-- The no-signal planes have one bit set (R176). -/
theorem getLsbD_noSignalPlanes (p k b : Fin 8) :
    (noSignalPlanes p)[k].getLsbD b.val = decide (k = 7 ∧ b = p) := by
  rw [noSignalPlanes, getElem_planesOf]
  split
  · rename_i h
    rw [getLsbD_setBit]
    simp [h]
  · rename_i h
    simp [h]

end Sys2Proof.Machine
end

