-- ==== Sys2Proof/Laws/State.lean ====
section
/-! SUPPORT. One lemma for each field and each update of the state, so that no proof unfolds a record update; then
the updates whose place the issuing port decides. -/

namespace Sys2Proof.Machine

/-! `setQmem` -/

@[simp] theorem State.setQmem_cfg (s : State) (m : List Host.Cell) : (s.setQmem m).cfg = s.cfg := rfl
@[simp] theorem State.setQmem_qmem (s : State) (m : List Host.Cell) : (s.setQmem m).qmem = m := rfl
@[simp] theorem State.setQmem_wptr (s : State) (m : List Host.Cell) : (s.setQmem m).wptr = s.wptr := rfl
@[simp] theorem State.setQmem_rptr (s : State) (m : List Host.Cell) : (s.setQmem m).rptr = s.rptr := rfl
@[simp] theorem State.setQmem_wqSync (s : State) (m : List Host.Cell) : (s.setQmem m).wqSync = s.wqSync := rfl
@[simp] theorem State.setQmem_rqSync (s : State) (m : List Host.Cell) : (s.setQmem m).rqSync = s.rqSync := rfl
@[simp] theorem State.setQmem_ckA (s : State) (m : List Host.Cell) : (s.setQmem m).ckA = s.ckA := rfl
@[simp] theorem State.setQmem_ckB (s : State) (m : List Host.Cell) : (s.setQmem m).ckB = s.ckB := rfl
@[simp] theorem State.setQmem_plane (s : State) (m : List Host.Cell) : (s.setQmem m).plane = s.plane := rfl
@[simp] theorem State.setQmem_win (s : State) (m : List Host.Cell) : (s.setQmem m).win = s.win := rfl
@[simp] theorem State.setQmem_sum (s : State) (m : List Host.Cell) : (s.setQmem m).sum = s.sum := rfl
@[simp] theorem State.setQmem_widx (s : State) (m : List Host.Cell) : (s.setQmem m).widx = s.widx := rfl
@[simp] theorem State.setQmem_faultCause (s : State) (m : List Host.Cell) :
    (s.setQmem m).faultCause = s.faultCause := rfl
@[simp] theorem State.setQmem_faultPort (s : State) (m : List Host.Cell) :
    (s.setQmem m).faultPort = s.faultPort := rfl
@[simp] theorem State.setQmem_faultWord (s : State) (m : List Host.Cell) :
    (s.setQmem m).faultWord = s.faultWord := rfl
@[simp] theorem State.setQmem_out (s : State) (m : List Host.Cell) : (s.setQmem m).out = s.out := rfl
@[simp] theorem State.setQmem_respP (s : State) (m : List Host.Cell) : (s.setQmem m).respP = s.respP := rfl
@[simp] theorem State.setQmem_respM (s : State) (m : List Host.Cell) : (s.setQmem m).respM = s.respM := rfl
@[simp] theorem State.setQmem_streamP (s : State) (m : List Host.Cell) :
    (s.setQmem m).streamP = s.streamP := rfl
@[simp] theorem State.setQmem_streamM (s : State) (m : List Host.Cell) :
    (s.setQmem m).streamM = s.streamM := rfl
@[simp] theorem State.setQmem_streamS (s : State) (m : List Host.Cell) :
    (s.setQmem m).streamS = s.streamS := rfl
@[simp] theorem State.setQmem_schedule (s : State) (m : List Host.Cell) :
    (s.setQmem m).schedule = s.schedule := rfl
@[simp] theorem State.setQmem_port (s : State) (m : List Host.Cell) : (s.setQmem m).port = s.port := rfl
@[simp] theorem State.setQmem_round (s : State) (m : List Host.Cell) : (s.setQmem m).round = s.round := rfl

/-! `setWptr` -/

@[simp] theorem State.setWptr_cfg (s : State) (v : Nat) : (s.setWptr v).cfg = s.cfg := rfl
@[simp] theorem State.setWptr_qmem (s : State) (v : Nat) : (s.setWptr v).qmem = s.qmem := rfl
@[simp] theorem State.setWptr_wptr (s : State) (v : Nat) : (s.setWptr v).wptr = v := rfl
@[simp] theorem State.setWptr_rptr (s : State) (v : Nat) : (s.setWptr v).rptr = s.rptr := rfl
@[simp] theorem State.setWptr_wqSync (s : State) (v : Nat) : (s.setWptr v).wqSync = s.wqSync := rfl
@[simp] theorem State.setWptr_rqSync (s : State) (v : Nat) : (s.setWptr v).rqSync = s.rqSync := rfl
@[simp] theorem State.setWptr_ckA (s : State) (v : Nat) : (s.setWptr v).ckA = s.ckA := rfl
@[simp] theorem State.setWptr_ckB (s : State) (v : Nat) : (s.setWptr v).ckB = s.ckB := rfl
@[simp] theorem State.setWptr_plane (s : State) (v : Nat) : (s.setWptr v).plane = s.plane := rfl
@[simp] theorem State.setWptr_win (s : State) (v : Nat) : (s.setWptr v).win = s.win := rfl
@[simp] theorem State.setWptr_sum (s : State) (v : Nat) : (s.setWptr v).sum = s.sum := rfl
@[simp] theorem State.setWptr_widx (s : State) (v : Nat) : (s.setWptr v).widx = s.widx := rfl
@[simp] theorem State.setWptr_faultCause (s : State) (v : Nat) :
    (s.setWptr v).faultCause = s.faultCause := rfl
@[simp] theorem State.setWptr_faultPort (s : State) (v : Nat) : (s.setWptr v).faultPort = s.faultPort := rfl
@[simp] theorem State.setWptr_faultWord (s : State) (v : Nat) : (s.setWptr v).faultWord = s.faultWord := rfl
@[simp] theorem State.setWptr_out (s : State) (v : Nat) : (s.setWptr v).out = s.out := rfl
@[simp] theorem State.setWptr_respP (s : State) (v : Nat) : (s.setWptr v).respP = s.respP := rfl
@[simp] theorem State.setWptr_respM (s : State) (v : Nat) : (s.setWptr v).respM = s.respM := rfl
@[simp] theorem State.setWptr_streamP (s : State) (v : Nat) : (s.setWptr v).streamP = s.streamP := rfl
@[simp] theorem State.setWptr_streamM (s : State) (v : Nat) : (s.setWptr v).streamM = s.streamM := rfl
@[simp] theorem State.setWptr_streamS (s : State) (v : Nat) : (s.setWptr v).streamS = s.streamS := rfl
@[simp] theorem State.setWptr_schedule (s : State) (v : Nat) : (s.setWptr v).schedule = s.schedule := rfl
@[simp] theorem State.setWptr_port (s : State) (v : Nat) : (s.setWptr v).port = s.port := rfl
@[simp] theorem State.setWptr_round (s : State) (v : Nat) : (s.setWptr v).round = s.round := rfl

/-! `setRptr` -/

@[simp] theorem State.setRptr_cfg (s : State) (v : Nat) : (s.setRptr v).cfg = s.cfg := rfl
@[simp] theorem State.setRptr_qmem (s : State) (v : Nat) : (s.setRptr v).qmem = s.qmem := rfl
@[simp] theorem State.setRptr_wptr (s : State) (v : Nat) : (s.setRptr v).wptr = s.wptr := rfl
@[simp] theorem State.setRptr_rptr (s : State) (v : Nat) : (s.setRptr v).rptr = v := rfl
@[simp] theorem State.setRptr_wqSync (s : State) (v : Nat) : (s.setRptr v).wqSync = s.wqSync := rfl
@[simp] theorem State.setRptr_rqSync (s : State) (v : Nat) : (s.setRptr v).rqSync = s.rqSync := rfl
@[simp] theorem State.setRptr_ckA (s : State) (v : Nat) : (s.setRptr v).ckA = s.ckA := rfl
@[simp] theorem State.setRptr_ckB (s : State) (v : Nat) : (s.setRptr v).ckB = s.ckB := rfl
@[simp] theorem State.setRptr_plane (s : State) (v : Nat) : (s.setRptr v).plane = s.plane := rfl
@[simp] theorem State.setRptr_win (s : State) (v : Nat) : (s.setRptr v).win = s.win := rfl
@[simp] theorem State.setRptr_sum (s : State) (v : Nat) : (s.setRptr v).sum = s.sum := rfl
@[simp] theorem State.setRptr_widx (s : State) (v : Nat) : (s.setRptr v).widx = s.widx := rfl
@[simp] theorem State.setRptr_faultCause (s : State) (v : Nat) :
    (s.setRptr v).faultCause = s.faultCause := rfl
@[simp] theorem State.setRptr_faultPort (s : State) (v : Nat) : (s.setRptr v).faultPort = s.faultPort := rfl
@[simp] theorem State.setRptr_faultWord (s : State) (v : Nat) : (s.setRptr v).faultWord = s.faultWord := rfl
@[simp] theorem State.setRptr_out (s : State) (v : Nat) : (s.setRptr v).out = s.out := rfl
@[simp] theorem State.setRptr_respP (s : State) (v : Nat) : (s.setRptr v).respP = s.respP := rfl
@[simp] theorem State.setRptr_respM (s : State) (v : Nat) : (s.setRptr v).respM = s.respM := rfl
@[simp] theorem State.setRptr_streamP (s : State) (v : Nat) : (s.setRptr v).streamP = s.streamP := rfl
@[simp] theorem State.setRptr_streamM (s : State) (v : Nat) : (s.setRptr v).streamM = s.streamM := rfl
@[simp] theorem State.setRptr_streamS (s : State) (v : Nat) : (s.setRptr v).streamS = s.streamS := rfl
@[simp] theorem State.setRptr_schedule (s : State) (v : Nat) : (s.setRptr v).schedule = s.schedule := rfl
@[simp] theorem State.setRptr_port (s : State) (v : Nat) : (s.setRptr v).port = s.port := rfl
@[simp] theorem State.setRptr_round (s : State) (v : Nat) : (s.setRptr v).round = s.round := rfl

/-! `setWqSync` -/

@[simp] theorem State.setWqSync_cfg (s : State) (v : Nat) : (s.setWqSync v).cfg = s.cfg := rfl
@[simp] theorem State.setWqSync_qmem (s : State) (v : Nat) : (s.setWqSync v).qmem = s.qmem := rfl
@[simp] theorem State.setWqSync_wptr (s : State) (v : Nat) : (s.setWqSync v).wptr = s.wptr := rfl
@[simp] theorem State.setWqSync_rptr (s : State) (v : Nat) : (s.setWqSync v).rptr = s.rptr := rfl
@[simp] theorem State.setWqSync_wqSync (s : State) (v : Nat) : (s.setWqSync v).wqSync = v := rfl
@[simp] theorem State.setWqSync_rqSync (s : State) (v : Nat) : (s.setWqSync v).rqSync = s.rqSync := rfl
@[simp] theorem State.setWqSync_ckA (s : State) (v : Nat) : (s.setWqSync v).ckA = s.ckA := rfl
@[simp] theorem State.setWqSync_ckB (s : State) (v : Nat) : (s.setWqSync v).ckB = s.ckB := rfl
@[simp] theorem State.setWqSync_plane (s : State) (v : Nat) : (s.setWqSync v).plane = s.plane := rfl
@[simp] theorem State.setWqSync_win (s : State) (v : Nat) : (s.setWqSync v).win = s.win := rfl
@[simp] theorem State.setWqSync_sum (s : State) (v : Nat) : (s.setWqSync v).sum = s.sum := rfl
@[simp] theorem State.setWqSync_widx (s : State) (v : Nat) : (s.setWqSync v).widx = s.widx := rfl
@[simp] theorem State.setWqSync_faultCause (s : State) (v : Nat) :
    (s.setWqSync v).faultCause = s.faultCause := rfl
@[simp] theorem State.setWqSync_faultPort (s : State) (v : Nat) :
    (s.setWqSync v).faultPort = s.faultPort := rfl
@[simp] theorem State.setWqSync_faultWord (s : State) (v : Nat) :
    (s.setWqSync v).faultWord = s.faultWord := rfl
@[simp] theorem State.setWqSync_out (s : State) (v : Nat) : (s.setWqSync v).out = s.out := rfl
@[simp] theorem State.setWqSync_respP (s : State) (v : Nat) : (s.setWqSync v).respP = s.respP := rfl
@[simp] theorem State.setWqSync_respM (s : State) (v : Nat) : (s.setWqSync v).respM = s.respM := rfl
@[simp] theorem State.setWqSync_streamP (s : State) (v : Nat) : (s.setWqSync v).streamP = s.streamP := rfl
@[simp] theorem State.setWqSync_streamM (s : State) (v : Nat) : (s.setWqSync v).streamM = s.streamM := rfl
@[simp] theorem State.setWqSync_streamS (s : State) (v : Nat) : (s.setWqSync v).streamS = s.streamS := rfl
@[simp] theorem State.setWqSync_schedule (s : State) (v : Nat) : (s.setWqSync v).schedule = s.schedule := rfl
@[simp] theorem State.setWqSync_port (s : State) (v : Nat) : (s.setWqSync v).port = s.port := rfl
@[simp] theorem State.setWqSync_round (s : State) (v : Nat) : (s.setWqSync v).round = s.round := rfl

/-! `setRqSync` -/

@[simp] theorem State.setRqSync_cfg (s : State) (v : Nat) : (s.setRqSync v).cfg = s.cfg := rfl
@[simp] theorem State.setRqSync_qmem (s : State) (v : Nat) : (s.setRqSync v).qmem = s.qmem := rfl
@[simp] theorem State.setRqSync_wptr (s : State) (v : Nat) : (s.setRqSync v).wptr = s.wptr := rfl
@[simp] theorem State.setRqSync_rptr (s : State) (v : Nat) : (s.setRqSync v).rptr = s.rptr := rfl
@[simp] theorem State.setRqSync_wqSync (s : State) (v : Nat) : (s.setRqSync v).wqSync = s.wqSync := rfl
@[simp] theorem State.setRqSync_rqSync (s : State) (v : Nat) : (s.setRqSync v).rqSync = v := rfl
@[simp] theorem State.setRqSync_ckA (s : State) (v : Nat) : (s.setRqSync v).ckA = s.ckA := rfl
@[simp] theorem State.setRqSync_ckB (s : State) (v : Nat) : (s.setRqSync v).ckB = s.ckB := rfl
@[simp] theorem State.setRqSync_plane (s : State) (v : Nat) : (s.setRqSync v).plane = s.plane := rfl
@[simp] theorem State.setRqSync_win (s : State) (v : Nat) : (s.setRqSync v).win = s.win := rfl
@[simp] theorem State.setRqSync_sum (s : State) (v : Nat) : (s.setRqSync v).sum = s.sum := rfl
@[simp] theorem State.setRqSync_widx (s : State) (v : Nat) : (s.setRqSync v).widx = s.widx := rfl
@[simp] theorem State.setRqSync_faultCause (s : State) (v : Nat) :
    (s.setRqSync v).faultCause = s.faultCause := rfl
@[simp] theorem State.setRqSync_faultPort (s : State) (v : Nat) :
    (s.setRqSync v).faultPort = s.faultPort := rfl
@[simp] theorem State.setRqSync_faultWord (s : State) (v : Nat) :
    (s.setRqSync v).faultWord = s.faultWord := rfl
@[simp] theorem State.setRqSync_out (s : State) (v : Nat) : (s.setRqSync v).out = s.out := rfl
@[simp] theorem State.setRqSync_respP (s : State) (v : Nat) : (s.setRqSync v).respP = s.respP := rfl
@[simp] theorem State.setRqSync_respM (s : State) (v : Nat) : (s.setRqSync v).respM = s.respM := rfl
@[simp] theorem State.setRqSync_streamP (s : State) (v : Nat) : (s.setRqSync v).streamP = s.streamP := rfl
@[simp] theorem State.setRqSync_streamM (s : State) (v : Nat) : (s.setRqSync v).streamM = s.streamM := rfl
@[simp] theorem State.setRqSync_streamS (s : State) (v : Nat) : (s.setRqSync v).streamS = s.streamS := rfl
@[simp] theorem State.setRqSync_schedule (s : State) (v : Nat) : (s.setRqSync v).schedule = s.schedule := rfl
@[simp] theorem State.setRqSync_port (s : State) (v : Nat) : (s.setRqSync v).port = s.port := rfl
@[simp] theorem State.setRqSync_round (s : State) (v : Nat) : (s.setRqSync v).round = s.round := rfl

/-! `setChecksum` -/

@[simp] theorem State.setChecksum_cfg (s : State) (a b : Byte) : (s.setChecksum a b).cfg = s.cfg := rfl
@[simp] theorem State.setChecksum_qmem (s : State) (a b : Byte) : (s.setChecksum a b).qmem = s.qmem := rfl
@[simp] theorem State.setChecksum_wptr (s : State) (a b : Byte) : (s.setChecksum a b).wptr = s.wptr := rfl
@[simp] theorem State.setChecksum_rptr (s : State) (a b : Byte) : (s.setChecksum a b).rptr = s.rptr := rfl
@[simp] theorem State.setChecksum_wqSync (s : State) (a b : Byte) :
    (s.setChecksum a b).wqSync = s.wqSync := rfl
@[simp] theorem State.setChecksum_rqSync (s : State) (a b : Byte) :
    (s.setChecksum a b).rqSync = s.rqSync := rfl
@[simp] theorem State.setChecksum_ckA (s : State) (a b : Byte) : (s.setChecksum a b).ckA = a := rfl
@[simp] theorem State.setChecksum_ckB (s : State) (a b : Byte) : (s.setChecksum a b).ckB = b := rfl
@[simp] theorem State.setChecksum_plane (s : State) (a b : Byte) : (s.setChecksum a b).plane = s.plane := rfl
@[simp] theorem State.setChecksum_win (s : State) (a b : Byte) : (s.setChecksum a b).win = s.win := rfl
@[simp] theorem State.setChecksum_sum (s : State) (a b : Byte) : (s.setChecksum a b).sum = s.sum := rfl
@[simp] theorem State.setChecksum_widx (s : State) (a b : Byte) : (s.setChecksum a b).widx = s.widx := rfl
@[simp] theorem State.setChecksum_faultCause (s : State) (a b : Byte) :
    (s.setChecksum a b).faultCause = s.faultCause := rfl
@[simp] theorem State.setChecksum_faultPort (s : State) (a b : Byte) :
    (s.setChecksum a b).faultPort = s.faultPort := rfl
@[simp] theorem State.setChecksum_faultWord (s : State) (a b : Byte) :
    (s.setChecksum a b).faultWord = s.faultWord := rfl
@[simp] theorem State.setChecksum_out (s : State) (a b : Byte) : (s.setChecksum a b).out = s.out := rfl
@[simp] theorem State.setChecksum_respP (s : State) (a b : Byte) : (s.setChecksum a b).respP = s.respP := rfl
@[simp] theorem State.setChecksum_respM (s : State) (a b : Byte) : (s.setChecksum a b).respM = s.respM := rfl
@[simp] theorem State.setChecksum_streamP (s : State) (a b : Byte) :
    (s.setChecksum a b).streamP = s.streamP := rfl
@[simp] theorem State.setChecksum_streamM (s : State) (a b : Byte) :
    (s.setChecksum a b).streamM = s.streamM := rfl
@[simp] theorem State.setChecksum_streamS (s : State) (a b : Byte) :
    (s.setChecksum a b).streamS = s.streamS := rfl
@[simp] theorem State.setChecksum_schedule (s : State) (a b : Byte) :
    (s.setChecksum a b).schedule = s.schedule := rfl
@[simp] theorem State.setChecksum_port (s : State) (a b : Byte) : (s.setChecksum a b).port = s.port := rfl
@[simp] theorem State.setChecksum_round (s : State) (a b : Byte) : (s.setChecksum a b).round = s.round := rfl

/-! `setPlane` -/

@[simp] theorem State.setPlane_cfg (s : State) (v : Vector Byte 8) : (s.setPlane v).cfg = s.cfg := rfl
@[simp] theorem State.setPlane_qmem (s : State) (v : Vector Byte 8) : (s.setPlane v).qmem = s.qmem := rfl
@[simp] theorem State.setPlane_wptr (s : State) (v : Vector Byte 8) : (s.setPlane v).wptr = s.wptr := rfl
@[simp] theorem State.setPlane_rptr (s : State) (v : Vector Byte 8) : (s.setPlane v).rptr = s.rptr := rfl
@[simp] theorem State.setPlane_wqSync (s : State) (v : Vector Byte 8) :
    (s.setPlane v).wqSync = s.wqSync := rfl
@[simp] theorem State.setPlane_rqSync (s : State) (v : Vector Byte 8) :
    (s.setPlane v).rqSync = s.rqSync := rfl
@[simp] theorem State.setPlane_ckA (s : State) (v : Vector Byte 8) : (s.setPlane v).ckA = s.ckA := rfl
@[simp] theorem State.setPlane_ckB (s : State) (v : Vector Byte 8) : (s.setPlane v).ckB = s.ckB := rfl
@[simp] theorem State.setPlane_plane (s : State) (v : Vector Byte 8) : (s.setPlane v).plane = v := rfl
@[simp] theorem State.setPlane_win (s : State) (v : Vector Byte 8) : (s.setPlane v).win = s.win := rfl
@[simp] theorem State.setPlane_sum (s : State) (v : Vector Byte 8) : (s.setPlane v).sum = s.sum := rfl
@[simp] theorem State.setPlane_widx (s : State) (v : Vector Byte 8) : (s.setPlane v).widx = s.widx := rfl
@[simp] theorem State.setPlane_faultCause (s : State) (v : Vector Byte 8) :
    (s.setPlane v).faultCause = s.faultCause := rfl
@[simp] theorem State.setPlane_faultPort (s : State) (v : Vector Byte 8) :
    (s.setPlane v).faultPort = s.faultPort := rfl
@[simp] theorem State.setPlane_faultWord (s : State) (v : Vector Byte 8) :
    (s.setPlane v).faultWord = s.faultWord := rfl
@[simp] theorem State.setPlane_out (s : State) (v : Vector Byte 8) : (s.setPlane v).out = s.out := rfl
@[simp] theorem State.setPlane_respP (s : State) (v : Vector Byte 8) : (s.setPlane v).respP = s.respP := rfl
@[simp] theorem State.setPlane_respM (s : State) (v : Vector Byte 8) : (s.setPlane v).respM = s.respM := rfl
@[simp] theorem State.setPlane_streamP (s : State) (v : Vector Byte 8) :
    (s.setPlane v).streamP = s.streamP := rfl
@[simp] theorem State.setPlane_streamM (s : State) (v : Vector Byte 8) :
    (s.setPlane v).streamM = s.streamM := rfl
@[simp] theorem State.setPlane_streamS (s : State) (v : Vector Byte 8) :
    (s.setPlane v).streamS = s.streamS := rfl
@[simp] theorem State.setPlane_schedule (s : State) (v : Vector Byte 8) :
    (s.setPlane v).schedule = s.schedule := rfl
@[simp] theorem State.setPlane_port (s : State) (v : Vector Byte 8) : (s.setPlane v).port = s.port := rfl
@[simp] theorem State.setPlane_round (s : State) (v : Vector Byte 8) : (s.setPlane v).round = s.round := rfl

/-! `setWin` -/

@[simp] theorem State.setWin_cfg (s : State) (v : List Sample) : (s.setWin v).cfg = s.cfg := rfl
@[simp] theorem State.setWin_qmem (s : State) (v : List Sample) : (s.setWin v).qmem = s.qmem := rfl
@[simp] theorem State.setWin_wptr (s : State) (v : List Sample) : (s.setWin v).wptr = s.wptr := rfl
@[simp] theorem State.setWin_rptr (s : State) (v : List Sample) : (s.setWin v).rptr = s.rptr := rfl
@[simp] theorem State.setWin_wqSync (s : State) (v : List Sample) : (s.setWin v).wqSync = s.wqSync := rfl
@[simp] theorem State.setWin_rqSync (s : State) (v : List Sample) : (s.setWin v).rqSync = s.rqSync := rfl
@[simp] theorem State.setWin_ckA (s : State) (v : List Sample) : (s.setWin v).ckA = s.ckA := rfl
@[simp] theorem State.setWin_ckB (s : State) (v : List Sample) : (s.setWin v).ckB = s.ckB := rfl
@[simp] theorem State.setWin_plane (s : State) (v : List Sample) : (s.setWin v).plane = s.plane := rfl
@[simp] theorem State.setWin_win (s : State) (v : List Sample) : (s.setWin v).win = v := rfl
@[simp] theorem State.setWin_sum (s : State) (v : List Sample) : (s.setWin v).sum = s.sum := rfl
@[simp] theorem State.setWin_widx (s : State) (v : List Sample) : (s.setWin v).widx = s.widx := rfl
@[simp] theorem State.setWin_faultCause (s : State) (v : List Sample) :
    (s.setWin v).faultCause = s.faultCause := rfl
@[simp] theorem State.setWin_faultPort (s : State) (v : List Sample) :
    (s.setWin v).faultPort = s.faultPort := rfl
@[simp] theorem State.setWin_faultWord (s : State) (v : List Sample) :
    (s.setWin v).faultWord = s.faultWord := rfl
@[simp] theorem State.setWin_out (s : State) (v : List Sample) : (s.setWin v).out = s.out := rfl
@[simp] theorem State.setWin_respP (s : State) (v : List Sample) : (s.setWin v).respP = s.respP := rfl
@[simp] theorem State.setWin_respM (s : State) (v : List Sample) : (s.setWin v).respM = s.respM := rfl
@[simp] theorem State.setWin_streamP (s : State) (v : List Sample) : (s.setWin v).streamP = s.streamP := rfl
@[simp] theorem State.setWin_streamM (s : State) (v : List Sample) : (s.setWin v).streamM = s.streamM := rfl
@[simp] theorem State.setWin_streamS (s : State) (v : List Sample) : (s.setWin v).streamS = s.streamS := rfl
@[simp] theorem State.setWin_schedule (s : State) (v : List Sample) :
    (s.setWin v).schedule = s.schedule := rfl
@[simp] theorem State.setWin_port (s : State) (v : List Sample) : (s.setWin v).port = s.port := rfl
@[simp] theorem State.setWin_round (s : State) (v : List Sample) : (s.setWin v).round = s.round := rfl

/-! `setSum` -/

@[simp] theorem State.setSum_cfg (s : State) (v : Nat) : (s.setSum v).cfg = s.cfg := rfl
@[simp] theorem State.setSum_qmem (s : State) (v : Nat) : (s.setSum v).qmem = s.qmem := rfl
@[simp] theorem State.setSum_wptr (s : State) (v : Nat) : (s.setSum v).wptr = s.wptr := rfl
@[simp] theorem State.setSum_rptr (s : State) (v : Nat) : (s.setSum v).rptr = s.rptr := rfl
@[simp] theorem State.setSum_wqSync (s : State) (v : Nat) : (s.setSum v).wqSync = s.wqSync := rfl
@[simp] theorem State.setSum_rqSync (s : State) (v : Nat) : (s.setSum v).rqSync = s.rqSync := rfl
@[simp] theorem State.setSum_ckA (s : State) (v : Nat) : (s.setSum v).ckA = s.ckA := rfl
@[simp] theorem State.setSum_ckB (s : State) (v : Nat) : (s.setSum v).ckB = s.ckB := rfl
@[simp] theorem State.setSum_plane (s : State) (v : Nat) : (s.setSum v).plane = s.plane := rfl
@[simp] theorem State.setSum_win (s : State) (v : Nat) : (s.setSum v).win = s.win := rfl
@[simp] theorem State.setSum_sum (s : State) (v : Nat) : (s.setSum v).sum = v := rfl
@[simp] theorem State.setSum_widx (s : State) (v : Nat) : (s.setSum v).widx = s.widx := rfl
@[simp] theorem State.setSum_faultCause (s : State) (v : Nat) : (s.setSum v).faultCause = s.faultCause := rfl
@[simp] theorem State.setSum_faultPort (s : State) (v : Nat) : (s.setSum v).faultPort = s.faultPort := rfl
@[simp] theorem State.setSum_faultWord (s : State) (v : Nat) : (s.setSum v).faultWord = s.faultWord := rfl
@[simp] theorem State.setSum_out (s : State) (v : Nat) : (s.setSum v).out = s.out := rfl
@[simp] theorem State.setSum_respP (s : State) (v : Nat) : (s.setSum v).respP = s.respP := rfl
@[simp] theorem State.setSum_respM (s : State) (v : Nat) : (s.setSum v).respM = s.respM := rfl
@[simp] theorem State.setSum_streamP (s : State) (v : Nat) : (s.setSum v).streamP = s.streamP := rfl
@[simp] theorem State.setSum_streamM (s : State) (v : Nat) : (s.setSum v).streamM = s.streamM := rfl
@[simp] theorem State.setSum_streamS (s : State) (v : Nat) : (s.setSum v).streamS = s.streamS := rfl
@[simp] theorem State.setSum_schedule (s : State) (v : Nat) : (s.setSum v).schedule = s.schedule := rfl
@[simp] theorem State.setSum_port (s : State) (v : Nat) : (s.setSum v).port = s.port := rfl
@[simp] theorem State.setSum_round (s : State) (v : Nat) : (s.setSum v).round = s.round := rfl

/-! `setWidx` -/

@[simp] theorem State.setWidx_cfg (s : State) (v : Nat) : (s.setWidx v).cfg = s.cfg := rfl
@[simp] theorem State.setWidx_qmem (s : State) (v : Nat) : (s.setWidx v).qmem = s.qmem := rfl
@[simp] theorem State.setWidx_wptr (s : State) (v : Nat) : (s.setWidx v).wptr = s.wptr := rfl
@[simp] theorem State.setWidx_rptr (s : State) (v : Nat) : (s.setWidx v).rptr = s.rptr := rfl
@[simp] theorem State.setWidx_wqSync (s : State) (v : Nat) : (s.setWidx v).wqSync = s.wqSync := rfl
@[simp] theorem State.setWidx_rqSync (s : State) (v : Nat) : (s.setWidx v).rqSync = s.rqSync := rfl
@[simp] theorem State.setWidx_ckA (s : State) (v : Nat) : (s.setWidx v).ckA = s.ckA := rfl
@[simp] theorem State.setWidx_ckB (s : State) (v : Nat) : (s.setWidx v).ckB = s.ckB := rfl
@[simp] theorem State.setWidx_plane (s : State) (v : Nat) : (s.setWidx v).plane = s.plane := rfl
@[simp] theorem State.setWidx_win (s : State) (v : Nat) : (s.setWidx v).win = s.win := rfl
@[simp] theorem State.setWidx_sum (s : State) (v : Nat) : (s.setWidx v).sum = s.sum := rfl
@[simp] theorem State.setWidx_widx (s : State) (v : Nat) : (s.setWidx v).widx = v := rfl
@[simp] theorem State.setWidx_faultCause (s : State) (v : Nat) :
    (s.setWidx v).faultCause = s.faultCause := rfl
@[simp] theorem State.setWidx_faultPort (s : State) (v : Nat) : (s.setWidx v).faultPort = s.faultPort := rfl
@[simp] theorem State.setWidx_faultWord (s : State) (v : Nat) : (s.setWidx v).faultWord = s.faultWord := rfl
@[simp] theorem State.setWidx_out (s : State) (v : Nat) : (s.setWidx v).out = s.out := rfl
@[simp] theorem State.setWidx_respP (s : State) (v : Nat) : (s.setWidx v).respP = s.respP := rfl
@[simp] theorem State.setWidx_respM (s : State) (v : Nat) : (s.setWidx v).respM = s.respM := rfl
@[simp] theorem State.setWidx_streamP (s : State) (v : Nat) : (s.setWidx v).streamP = s.streamP := rfl
@[simp] theorem State.setWidx_streamM (s : State) (v : Nat) : (s.setWidx v).streamM = s.streamM := rfl
@[simp] theorem State.setWidx_streamS (s : State) (v : Nat) : (s.setWidx v).streamS = s.streamS := rfl
@[simp] theorem State.setWidx_schedule (s : State) (v : Nat) : (s.setWidx v).schedule = s.schedule := rfl
@[simp] theorem State.setWidx_port (s : State) (v : Nat) : (s.setWidx v).port = s.port := rfl
@[simp] theorem State.setWidx_round (s : State) (v : Nat) : (s.setWidx v).round = s.round := rfl

/-! `setPort` -/

@[simp] theorem State.setPort_cfg (s : State) (q : Port) : (s.setPort q).cfg = s.cfg := rfl
@[simp] theorem State.setPort_qmem (s : State) (q : Port) : (s.setPort q).qmem = s.qmem := rfl
@[simp] theorem State.setPort_wptr (s : State) (q : Port) : (s.setPort q).wptr = s.wptr := rfl
@[simp] theorem State.setPort_rptr (s : State) (q : Port) : (s.setPort q).rptr = s.rptr := rfl
@[simp] theorem State.setPort_wqSync (s : State) (q : Port) : (s.setPort q).wqSync = s.wqSync := rfl
@[simp] theorem State.setPort_rqSync (s : State) (q : Port) : (s.setPort q).rqSync = s.rqSync := rfl
@[simp] theorem State.setPort_ckA (s : State) (q : Port) : (s.setPort q).ckA = s.ckA := rfl
@[simp] theorem State.setPort_ckB (s : State) (q : Port) : (s.setPort q).ckB = s.ckB := rfl
@[simp] theorem State.setPort_plane (s : State) (q : Port) : (s.setPort q).plane = s.plane := rfl
@[simp] theorem State.setPort_win (s : State) (q : Port) : (s.setPort q).win = s.win := rfl
@[simp] theorem State.setPort_sum (s : State) (q : Port) : (s.setPort q).sum = s.sum := rfl
@[simp] theorem State.setPort_widx (s : State) (q : Port) : (s.setPort q).widx = s.widx := rfl
@[simp] theorem State.setPort_faultCause (s : State) (q : Port) :
    (s.setPort q).faultCause = s.faultCause := rfl
@[simp] theorem State.setPort_faultPort (s : State) (q : Port) : (s.setPort q).faultPort = s.faultPort := rfl
@[simp] theorem State.setPort_faultWord (s : State) (q : Port) : (s.setPort q).faultWord = s.faultWord := rfl
@[simp] theorem State.setPort_out (s : State) (q : Port) : (s.setPort q).out = s.out := rfl
@[simp] theorem State.setPort_respP (s : State) (q : Port) : (s.setPort q).respP = s.respP := rfl
@[simp] theorem State.setPort_respM (s : State) (q : Port) : (s.setPort q).respM = s.respM := rfl
@[simp] theorem State.setPort_streamP (s : State) (q : Port) : (s.setPort q).streamP = s.streamP := rfl
@[simp] theorem State.setPort_streamM (s : State) (q : Port) : (s.setPort q).streamM = s.streamM := rfl
@[simp] theorem State.setPort_streamS (s : State) (q : Port) : (s.setPort q).streamS = s.streamS := rfl
@[simp] theorem State.setPort_schedule (s : State) (q : Port) : (s.setPort q).schedule = s.schedule := rfl
@[simp] theorem State.setPort_port (s : State) (q : Port) : (s.setPort q).port = q := rfl
@[simp] theorem State.setPort_round (s : State) (q : Port) : (s.setPort q).round = s.round := rfl

/-! `latch` -/

@[simp] theorem State.latch_cfg (s : State) (c : BitVec 3) (q : BitVec 2) (w : Word) :
    (s.latch c q w).cfg = s.cfg := rfl
@[simp] theorem State.latch_qmem (s : State) (c : BitVec 3) (q : BitVec 2) (w : Word) :
    (s.latch c q w).qmem = s.qmem := rfl
@[simp] theorem State.latch_wptr (s : State) (c : BitVec 3) (q : BitVec 2) (w : Word) :
    (s.latch c q w).wptr = s.wptr := rfl
@[simp] theorem State.latch_rptr (s : State) (c : BitVec 3) (q : BitVec 2) (w : Word) :
    (s.latch c q w).rptr = s.rptr := rfl
@[simp] theorem State.latch_wqSync (s : State) (c : BitVec 3) (q : BitVec 2) (w : Word) :
    (s.latch c q w).wqSync = s.wqSync := rfl
@[simp] theorem State.latch_rqSync (s : State) (c : BitVec 3) (q : BitVec 2) (w : Word) :
    (s.latch c q w).rqSync = s.rqSync := rfl
@[simp] theorem State.latch_ckA (s : State) (c : BitVec 3) (q : BitVec 2) (w : Word) :
    (s.latch c q w).ckA = s.ckA := rfl
@[simp] theorem State.latch_ckB (s : State) (c : BitVec 3) (q : BitVec 2) (w : Word) :
    (s.latch c q w).ckB = s.ckB := rfl
@[simp] theorem State.latch_plane (s : State) (c : BitVec 3) (q : BitVec 2) (w : Word) :
    (s.latch c q w).plane = s.plane := rfl
@[simp] theorem State.latch_win (s : State) (c : BitVec 3) (q : BitVec 2) (w : Word) :
    (s.latch c q w).win = s.win := rfl
@[simp] theorem State.latch_sum (s : State) (c : BitVec 3) (q : BitVec 2) (w : Word) :
    (s.latch c q w).sum = s.sum := rfl
@[simp] theorem State.latch_widx (s : State) (c : BitVec 3) (q : BitVec 2) (w : Word) :
    (s.latch c q w).widx = s.widx := rfl
@[simp] theorem State.latch_faultCause (s : State) (c : BitVec 3) (q : BitVec 2) (w : Word) :
    (s.latch c q w).faultCause = c := rfl
@[simp] theorem State.latch_faultPort (s : State) (c : BitVec 3) (q : BitVec 2) (w : Word) :
    (s.latch c q w).faultPort = q := rfl
@[simp] theorem State.latch_faultWord (s : State) (c : BitVec 3) (q : BitVec 2) (w : Word) :
    (s.latch c q w).faultWord = w := rfl
@[simp] theorem State.latch_out (s : State) (c : BitVec 3) (q : BitVec 2) (w : Word) :
    (s.latch c q w).out = s.out := rfl
@[simp] theorem State.latch_respP (s : State) (c : BitVec 3) (q : BitVec 2) (w : Word) :
    (s.latch c q w).respP = s.respP := rfl
@[simp] theorem State.latch_respM (s : State) (c : BitVec 3) (q : BitVec 2) (w : Word) :
    (s.latch c q w).respM = s.respM := rfl
@[simp] theorem State.latch_streamP (s : State) (c : BitVec 3) (q : BitVec 2) (w : Word) :
    (s.latch c q w).streamP = s.streamP := rfl
@[simp] theorem State.latch_streamM (s : State) (c : BitVec 3) (q : BitVec 2) (w : Word) :
    (s.latch c q w).streamM = s.streamM := rfl
@[simp] theorem State.latch_streamS (s : State) (c : BitVec 3) (q : BitVec 2) (w : Word) :
    (s.latch c q w).streamS = s.streamS := rfl
@[simp] theorem State.latch_schedule (s : State) (c : BitVec 3) (q : BitVec 2) (w : Word) :
    (s.latch c q w).schedule = s.schedule := rfl
@[simp] theorem State.latch_port (s : State) (c : BitVec 3) (q : BitVec 2) (w : Word) :
    (s.latch c q w).port = s.port := rfl
@[simp] theorem State.latch_round (s : State) (c : BitVec 3) (q : BitVec 2) (w : Word) :
    (s.latch c q w).round = s.round := rfl

/-! `emitAll` -/

@[simp] theorem State.emitAll_cfg (s : State) (e : Sender) (ps : List (Byte × Byte)) :
    (s.emitAll e ps).cfg = s.cfg := rfl
@[simp] theorem State.emitAll_qmem (s : State) (e : Sender) (ps : List (Byte × Byte)) :
    (s.emitAll e ps).qmem = s.qmem := rfl
@[simp] theorem State.emitAll_wptr (s : State) (e : Sender) (ps : List (Byte × Byte)) :
    (s.emitAll e ps).wptr = s.wptr := rfl
@[simp] theorem State.emitAll_rptr (s : State) (e : Sender) (ps : List (Byte × Byte)) :
    (s.emitAll e ps).rptr = s.rptr := rfl
@[simp] theorem State.emitAll_wqSync (s : State) (e : Sender) (ps : List (Byte × Byte)) :
    (s.emitAll e ps).wqSync = s.wqSync := rfl
@[simp] theorem State.emitAll_rqSync (s : State) (e : Sender) (ps : List (Byte × Byte)) :
    (s.emitAll e ps).rqSync = s.rqSync := rfl
@[simp] theorem State.emitAll_ckA (s : State) (e : Sender) (ps : List (Byte × Byte)) :
    (s.emitAll e ps).ckA = s.ckA := rfl
@[simp] theorem State.emitAll_ckB (s : State) (e : Sender) (ps : List (Byte × Byte)) :
    (s.emitAll e ps).ckB = s.ckB := rfl
@[simp] theorem State.emitAll_plane (s : State) (e : Sender) (ps : List (Byte × Byte)) :
    (s.emitAll e ps).plane = s.plane := rfl
@[simp] theorem State.emitAll_win (s : State) (e : Sender) (ps : List (Byte × Byte)) :
    (s.emitAll e ps).win = s.win := rfl
@[simp] theorem State.emitAll_sum (s : State) (e : Sender) (ps : List (Byte × Byte)) :
    (s.emitAll e ps).sum = s.sum := rfl
@[simp] theorem State.emitAll_widx (s : State) (e : Sender) (ps : List (Byte × Byte)) :
    (s.emitAll e ps).widx = s.widx := rfl
@[simp] theorem State.emitAll_faultCause (s : State) (e : Sender) (ps : List (Byte × Byte)) :
    (s.emitAll e ps).faultCause = s.faultCause := rfl
@[simp] theorem State.emitAll_faultPort (s : State) (e : Sender) (ps : List (Byte × Byte)) :
    (s.emitAll e ps).faultPort = s.faultPort := rfl
@[simp] theorem State.emitAll_faultWord (s : State) (e : Sender) (ps : List (Byte × Byte)) :
    (s.emitAll e ps).faultWord = s.faultWord := rfl
@[simp] theorem State.emitAll_out (s : State) (e : Sender) (ps : List (Byte × Byte)) :
    (s.emitAll e ps).out = s.out ++ ps.map fun x => OutEvent.pair e x.1 x.2 := rfl
@[simp] theorem State.emitAll_respP (s : State) (e : Sender) (ps : List (Byte × Byte)) :
    (s.emitAll e ps).respP = s.respP := rfl
@[simp] theorem State.emitAll_respM (s : State) (e : Sender) (ps : List (Byte × Byte)) :
    (s.emitAll e ps).respM = s.respM := rfl
@[simp] theorem State.emitAll_streamP (s : State) (e : Sender) (ps : List (Byte × Byte)) :
    (s.emitAll e ps).streamP = s.streamP := rfl
@[simp] theorem State.emitAll_streamM (s : State) (e : Sender) (ps : List (Byte × Byte)) :
    (s.emitAll e ps).streamM = s.streamM := rfl
@[simp] theorem State.emitAll_streamS (s : State) (e : Sender) (ps : List (Byte × Byte)) :
    (s.emitAll e ps).streamS = s.streamS := rfl
@[simp] theorem State.emitAll_schedule (s : State) (e : Sender) (ps : List (Byte × Byte)) :
    (s.emitAll e ps).schedule = s.schedule := rfl
@[simp] theorem State.emitAll_port (s : State) (e : Sender) (ps : List (Byte × Byte)) :
    (s.emitAll e ps).port = s.port := rfl
@[simp] theorem State.emitAll_round (s : State) (e : Sender) (ps : List (Byte × Byte)) :
    (s.emitAll e ps).round = s.round := rfl

/-! `emit` -/

@[simp] theorem State.emit_cfg (s : State) (e : Sender) (x d : Byte) : (s.emit e x d).cfg = s.cfg := rfl
@[simp] theorem State.emit_qmem (s : State) (e : Sender) (x d : Byte) : (s.emit e x d).qmem = s.qmem := rfl
@[simp] theorem State.emit_wptr (s : State) (e : Sender) (x d : Byte) : (s.emit e x d).wptr = s.wptr := rfl
@[simp] theorem State.emit_rptr (s : State) (e : Sender) (x d : Byte) : (s.emit e x d).rptr = s.rptr := rfl
@[simp] theorem State.emit_wqSync (s : State) (e : Sender) (x d : Byte) :
    (s.emit e x d).wqSync = s.wqSync := rfl
@[simp] theorem State.emit_rqSync (s : State) (e : Sender) (x d : Byte) :
    (s.emit e x d).rqSync = s.rqSync := rfl
@[simp] theorem State.emit_ckA (s : State) (e : Sender) (x d : Byte) : (s.emit e x d).ckA = s.ckA := rfl
@[simp] theorem State.emit_ckB (s : State) (e : Sender) (x d : Byte) : (s.emit e x d).ckB = s.ckB := rfl
@[simp] theorem State.emit_plane (s : State) (e : Sender) (x d : Byte) : (s.emit e x d).plane = s.plane := rfl
@[simp] theorem State.emit_win (s : State) (e : Sender) (x d : Byte) : (s.emit e x d).win = s.win := rfl
@[simp] theorem State.emit_sum (s : State) (e : Sender) (x d : Byte) : (s.emit e x d).sum = s.sum := rfl
@[simp] theorem State.emit_widx (s : State) (e : Sender) (x d : Byte) : (s.emit e x d).widx = s.widx := rfl
@[simp] theorem State.emit_faultCause (s : State) (e : Sender) (x d : Byte) :
    (s.emit e x d).faultCause = s.faultCause := rfl
@[simp] theorem State.emit_faultPort (s : State) (e : Sender) (x d : Byte) :
    (s.emit e x d).faultPort = s.faultPort := rfl
@[simp] theorem State.emit_faultWord (s : State) (e : Sender) (x d : Byte) :
    (s.emit e x d).faultWord = s.faultWord := rfl
@[simp] theorem State.emit_out (s : State) (e : Sender) (x d : Byte) :
    (s.emit e x d).out = s.out ++ [OutEvent.pair e x d] := rfl
@[simp] theorem State.emit_respP (s : State) (e : Sender) (x d : Byte) : (s.emit e x d).respP = s.respP := rfl
@[simp] theorem State.emit_respM (s : State) (e : Sender) (x d : Byte) : (s.emit e x d).respM = s.respM := rfl
@[simp] theorem State.emit_streamP (s : State) (e : Sender) (x d : Byte) :
    (s.emit e x d).streamP = s.streamP := rfl
@[simp] theorem State.emit_streamM (s : State) (e : Sender) (x d : Byte) :
    (s.emit e x d).streamM = s.streamM := rfl
@[simp] theorem State.emit_streamS (s : State) (e : Sender) (x d : Byte) :
    (s.emit e x d).streamS = s.streamS := rfl
@[simp] theorem State.emit_schedule (s : State) (e : Sender) (x d : Byte) :
    (s.emit e x d).schedule = s.schedule := rfl
@[simp] theorem State.emit_port (s : State) (e : Sender) (x d : Byte) : (s.emit e x d).port = s.port := rfl
@[simp] theorem State.emit_round (s : State) (e : Sender) (x d : Byte) : (s.emit e x d).round = s.round := rfl

/-! `respondP` -/

@[simp] theorem State.respondP_cfg (s : State) (v : Response) : (s.respondP v).cfg = s.cfg := rfl
@[simp] theorem State.respondP_qmem (s : State) (v : Response) : (s.respondP v).qmem = s.qmem := rfl
@[simp] theorem State.respondP_wptr (s : State) (v : Response) : (s.respondP v).wptr = s.wptr := rfl
@[simp] theorem State.respondP_rptr (s : State) (v : Response) : (s.respondP v).rptr = s.rptr := rfl
@[simp] theorem State.respondP_wqSync (s : State) (v : Response) : (s.respondP v).wqSync = s.wqSync := rfl
@[simp] theorem State.respondP_rqSync (s : State) (v : Response) : (s.respondP v).rqSync = s.rqSync := rfl
@[simp] theorem State.respondP_ckA (s : State) (v : Response) : (s.respondP v).ckA = s.ckA := rfl
@[simp] theorem State.respondP_ckB (s : State) (v : Response) : (s.respondP v).ckB = s.ckB := rfl
@[simp] theorem State.respondP_plane (s : State) (v : Response) : (s.respondP v).plane = s.plane := rfl
@[simp] theorem State.respondP_win (s : State) (v : Response) : (s.respondP v).win = s.win := rfl
@[simp] theorem State.respondP_sum (s : State) (v : Response) : (s.respondP v).sum = s.sum := rfl
@[simp] theorem State.respondP_widx (s : State) (v : Response) : (s.respondP v).widx = s.widx := rfl
@[simp] theorem State.respondP_faultCause (s : State) (v : Response) :
    (s.respondP v).faultCause = s.faultCause := rfl
@[simp] theorem State.respondP_faultPort (s : State) (v : Response) :
    (s.respondP v).faultPort = s.faultPort := rfl
@[simp] theorem State.respondP_faultWord (s : State) (v : Response) :
    (s.respondP v).faultWord = s.faultWord := rfl
@[simp] theorem State.respondP_out (s : State) (v : Response) : (s.respondP v).out = s.out := rfl
@[simp] theorem State.respondP_respP (s : State) (v : Response) : (s.respondP v).respP = s.respP ++ [v] := rfl
@[simp] theorem State.respondP_respM (s : State) (v : Response) : (s.respondP v).respM = s.respM := rfl
@[simp] theorem State.respondP_streamP (s : State) (v : Response) : (s.respondP v).streamP = s.streamP := rfl
@[simp] theorem State.respondP_streamM (s : State) (v : Response) : (s.respondP v).streamM = s.streamM := rfl
@[simp] theorem State.respondP_streamS (s : State) (v : Response) : (s.respondP v).streamS = s.streamS := rfl
@[simp] theorem State.respondP_schedule (s : State) (v : Response) :
    (s.respondP v).schedule = s.schedule := rfl
@[simp] theorem State.respondP_port (s : State) (v : Response) : (s.respondP v).port = s.port := rfl
@[simp] theorem State.respondP_round (s : State) (v : Response) : (s.respondP v).round = s.round := rfl

/-! `respondM` -/

@[simp] theorem State.respondM_cfg (s : State) (v : Response) : (s.respondM v).cfg = s.cfg := rfl
@[simp] theorem State.respondM_qmem (s : State) (v : Response) : (s.respondM v).qmem = s.qmem := rfl
@[simp] theorem State.respondM_wptr (s : State) (v : Response) : (s.respondM v).wptr = s.wptr := rfl
@[simp] theorem State.respondM_rptr (s : State) (v : Response) : (s.respondM v).rptr = s.rptr := rfl
@[simp] theorem State.respondM_wqSync (s : State) (v : Response) : (s.respondM v).wqSync = s.wqSync := rfl
@[simp] theorem State.respondM_rqSync (s : State) (v : Response) : (s.respondM v).rqSync = s.rqSync := rfl
@[simp] theorem State.respondM_ckA (s : State) (v : Response) : (s.respondM v).ckA = s.ckA := rfl
@[simp] theorem State.respondM_ckB (s : State) (v : Response) : (s.respondM v).ckB = s.ckB := rfl
@[simp] theorem State.respondM_plane (s : State) (v : Response) : (s.respondM v).plane = s.plane := rfl
@[simp] theorem State.respondM_win (s : State) (v : Response) : (s.respondM v).win = s.win := rfl
@[simp] theorem State.respondM_sum (s : State) (v : Response) : (s.respondM v).sum = s.sum := rfl
@[simp] theorem State.respondM_widx (s : State) (v : Response) : (s.respondM v).widx = s.widx := rfl
@[simp] theorem State.respondM_faultCause (s : State) (v : Response) :
    (s.respondM v).faultCause = s.faultCause := rfl
@[simp] theorem State.respondM_faultPort (s : State) (v : Response) :
    (s.respondM v).faultPort = s.faultPort := rfl
@[simp] theorem State.respondM_faultWord (s : State) (v : Response) :
    (s.respondM v).faultWord = s.faultWord := rfl
@[simp] theorem State.respondM_out (s : State) (v : Response) : (s.respondM v).out = s.out := rfl
@[simp] theorem State.respondM_respP (s : State) (v : Response) : (s.respondM v).respP = s.respP := rfl
@[simp] theorem State.respondM_respM (s : State) (v : Response) : (s.respondM v).respM = s.respM ++ [v] := rfl
@[simp] theorem State.respondM_streamP (s : State) (v : Response) : (s.respondM v).streamP = s.streamP := rfl
@[simp] theorem State.respondM_streamM (s : State) (v : Response) : (s.respondM v).streamM = s.streamM := rfl
@[simp] theorem State.respondM_streamS (s : State) (v : Response) : (s.respondM v).streamS = s.streamS := rfl
@[simp] theorem State.respondM_schedule (s : State) (v : Response) :
    (s.respondM v).schedule = s.schedule := rfl
@[simp] theorem State.respondM_port (s : State) (v : Response) : (s.respondM v).port = s.port := rfl
@[simp] theorem State.respondM_round (s : State) (v : Response) : (s.respondM v).round = s.round := rfl

/-! `setStreamP` -/

@[simp] theorem State.setStreamP_cfg (s : State) (v : CommandStream) : (s.setStreamP v).cfg = s.cfg := rfl
@[simp] theorem State.setStreamP_qmem (s : State) (v : CommandStream) : (s.setStreamP v).qmem = s.qmem := rfl
@[simp] theorem State.setStreamP_wptr (s : State) (v : CommandStream) : (s.setStreamP v).wptr = s.wptr := rfl
@[simp] theorem State.setStreamP_rptr (s : State) (v : CommandStream) : (s.setStreamP v).rptr = s.rptr := rfl
@[simp] theorem State.setStreamP_wqSync (s : State) (v : CommandStream) :
    (s.setStreamP v).wqSync = s.wqSync := rfl
@[simp] theorem State.setStreamP_rqSync (s : State) (v : CommandStream) :
    (s.setStreamP v).rqSync = s.rqSync := rfl
@[simp] theorem State.setStreamP_ckA (s : State) (v : CommandStream) : (s.setStreamP v).ckA = s.ckA := rfl
@[simp] theorem State.setStreamP_ckB (s : State) (v : CommandStream) : (s.setStreamP v).ckB = s.ckB := rfl
@[simp] theorem State.setStreamP_plane (s : State) (v : CommandStream) : (s.setStreamP v).plane = s.plane := rfl
@[simp] theorem State.setStreamP_win (s : State) (v : CommandStream) : (s.setStreamP v).win = s.win := rfl
@[simp] theorem State.setStreamP_sum (s : State) (v : CommandStream) : (s.setStreamP v).sum = s.sum := rfl
@[simp] theorem State.setStreamP_widx (s : State) (v : CommandStream) : (s.setStreamP v).widx = s.widx := rfl
@[simp] theorem State.setStreamP_faultCause (s : State) (v : CommandStream) :
    (s.setStreamP v).faultCause = s.faultCause := rfl
@[simp] theorem State.setStreamP_faultPort (s : State) (v : CommandStream) :
    (s.setStreamP v).faultPort = s.faultPort := rfl
@[simp] theorem State.setStreamP_faultWord (s : State) (v : CommandStream) :
    (s.setStreamP v).faultWord = s.faultWord := rfl
@[simp] theorem State.setStreamP_out (s : State) (v : CommandStream) : (s.setStreamP v).out = s.out := rfl
@[simp] theorem State.setStreamP_respP (s : State) (v : CommandStream) : (s.setStreamP v).respP = s.respP := rfl
@[simp] theorem State.setStreamP_respM (s : State) (v : CommandStream) : (s.setStreamP v).respM = s.respM := rfl
@[simp] theorem State.setStreamP_streamP (s : State) (v : CommandStream) : (s.setStreamP v).streamP = v := rfl
@[simp] theorem State.setStreamP_streamM (s : State) (v : CommandStream) :
    (s.setStreamP v).streamM = s.streamM := rfl
@[simp] theorem State.setStreamP_streamS (s : State) (v : CommandStream) :
    (s.setStreamP v).streamS = s.streamS := rfl
@[simp] theorem State.setStreamP_schedule (s : State) (v : CommandStream) :
    (s.setStreamP v).schedule = s.schedule := rfl
@[simp] theorem State.setStreamP_port (s : State) (v : CommandStream) : (s.setStreamP v).port = s.port := rfl
@[simp] theorem State.setStreamP_round (s : State) (v : CommandStream) : (s.setStreamP v).round = s.round := rfl

/-! `setStreamM` -/

@[simp] theorem State.setStreamM_cfg (s : State) (v : CommandStream) : (s.setStreamM v).cfg = s.cfg := rfl
@[simp] theorem State.setStreamM_qmem (s : State) (v : CommandStream) : (s.setStreamM v).qmem = s.qmem := rfl
@[simp] theorem State.setStreamM_wptr (s : State) (v : CommandStream) : (s.setStreamM v).wptr = s.wptr := rfl
@[simp] theorem State.setStreamM_rptr (s : State) (v : CommandStream) : (s.setStreamM v).rptr = s.rptr := rfl
@[simp] theorem State.setStreamM_wqSync (s : State) (v : CommandStream) :
    (s.setStreamM v).wqSync = s.wqSync := rfl
@[simp] theorem State.setStreamM_rqSync (s : State) (v : CommandStream) :
    (s.setStreamM v).rqSync = s.rqSync := rfl
@[simp] theorem State.setStreamM_ckA (s : State) (v : CommandStream) : (s.setStreamM v).ckA = s.ckA := rfl
@[simp] theorem State.setStreamM_ckB (s : State) (v : CommandStream) : (s.setStreamM v).ckB = s.ckB := rfl
@[simp] theorem State.setStreamM_plane (s : State) (v : CommandStream) : (s.setStreamM v).plane = s.plane := rfl
@[simp] theorem State.setStreamM_win (s : State) (v : CommandStream) : (s.setStreamM v).win = s.win := rfl
@[simp] theorem State.setStreamM_sum (s : State) (v : CommandStream) : (s.setStreamM v).sum = s.sum := rfl
@[simp] theorem State.setStreamM_widx (s : State) (v : CommandStream) : (s.setStreamM v).widx = s.widx := rfl
@[simp] theorem State.setStreamM_faultCause (s : State) (v : CommandStream) :
    (s.setStreamM v).faultCause = s.faultCause := rfl
@[simp] theorem State.setStreamM_faultPort (s : State) (v : CommandStream) :
    (s.setStreamM v).faultPort = s.faultPort := rfl
@[simp] theorem State.setStreamM_faultWord (s : State) (v : CommandStream) :
    (s.setStreamM v).faultWord = s.faultWord := rfl
@[simp] theorem State.setStreamM_out (s : State) (v : CommandStream) : (s.setStreamM v).out = s.out := rfl
@[simp] theorem State.setStreamM_respP (s : State) (v : CommandStream) : (s.setStreamM v).respP = s.respP := rfl
@[simp] theorem State.setStreamM_respM (s : State) (v : CommandStream) : (s.setStreamM v).respM = s.respM := rfl
@[simp] theorem State.setStreamM_streamP (s : State) (v : CommandStream) :
    (s.setStreamM v).streamP = s.streamP := rfl
@[simp] theorem State.setStreamM_streamM (s : State) (v : CommandStream) : (s.setStreamM v).streamM = v := rfl
@[simp] theorem State.setStreamM_streamS (s : State) (v : CommandStream) :
    (s.setStreamM v).streamS = s.streamS := rfl
@[simp] theorem State.setStreamM_schedule (s : State) (v : CommandStream) :
    (s.setStreamM v).schedule = s.schedule := rfl
@[simp] theorem State.setStreamM_port (s : State) (v : CommandStream) : (s.setStreamM v).port = s.port := rfl
@[simp] theorem State.setStreamM_round (s : State) (v : CommandStream) : (s.setStreamM v).round = s.round := rfl

/-! `setStreamS` -/

@[simp] theorem State.setStreamS_cfg (s : State) (v : CommandStream) : (s.setStreamS v).cfg = s.cfg := rfl
@[simp] theorem State.setStreamS_qmem (s : State) (v : CommandStream) : (s.setStreamS v).qmem = s.qmem := rfl
@[simp] theorem State.setStreamS_wptr (s : State) (v : CommandStream) : (s.setStreamS v).wptr = s.wptr := rfl
@[simp] theorem State.setStreamS_rptr (s : State) (v : CommandStream) : (s.setStreamS v).rptr = s.rptr := rfl
@[simp] theorem State.setStreamS_wqSync (s : State) (v : CommandStream) :
    (s.setStreamS v).wqSync = s.wqSync := rfl
@[simp] theorem State.setStreamS_rqSync (s : State) (v : CommandStream) :
    (s.setStreamS v).rqSync = s.rqSync := rfl
@[simp] theorem State.setStreamS_ckA (s : State) (v : CommandStream) : (s.setStreamS v).ckA = s.ckA := rfl
@[simp] theorem State.setStreamS_ckB (s : State) (v : CommandStream) : (s.setStreamS v).ckB = s.ckB := rfl
@[simp] theorem State.setStreamS_plane (s : State) (v : CommandStream) : (s.setStreamS v).plane = s.plane := rfl
@[simp] theorem State.setStreamS_win (s : State) (v : CommandStream) : (s.setStreamS v).win = s.win := rfl
@[simp] theorem State.setStreamS_sum (s : State) (v : CommandStream) : (s.setStreamS v).sum = s.sum := rfl
@[simp] theorem State.setStreamS_widx (s : State) (v : CommandStream) : (s.setStreamS v).widx = s.widx := rfl
@[simp] theorem State.setStreamS_faultCause (s : State) (v : CommandStream) :
    (s.setStreamS v).faultCause = s.faultCause := rfl
@[simp] theorem State.setStreamS_faultPort (s : State) (v : CommandStream) :
    (s.setStreamS v).faultPort = s.faultPort := rfl
@[simp] theorem State.setStreamS_faultWord (s : State) (v : CommandStream) :
    (s.setStreamS v).faultWord = s.faultWord := rfl
@[simp] theorem State.setStreamS_out (s : State) (v : CommandStream) : (s.setStreamS v).out = s.out := rfl
@[simp] theorem State.setStreamS_respP (s : State) (v : CommandStream) : (s.setStreamS v).respP = s.respP := rfl
@[simp] theorem State.setStreamS_respM (s : State) (v : CommandStream) : (s.setStreamS v).respM = s.respM := rfl
@[simp] theorem State.setStreamS_streamP (s : State) (v : CommandStream) :
    (s.setStreamS v).streamP = s.streamP := rfl
@[simp] theorem State.setStreamS_streamM (s : State) (v : CommandStream) :
    (s.setStreamS v).streamM = s.streamM := rfl
@[simp] theorem State.setStreamS_streamS (s : State) (v : CommandStream) : (s.setStreamS v).streamS = v := rfl
@[simp] theorem State.setStreamS_schedule (s : State) (v : CommandStream) :
    (s.setStreamS v).schedule = s.schedule := rfl
@[simp] theorem State.setStreamS_port (s : State) (v : CommandStream) : (s.setStreamS v).port = s.port := rfl
@[simp] theorem State.setStreamS_round (s : State) (v : CommandStream) : (s.setStreamS v).round = s.round := rfl

/-! `takeTurn` -/

@[simp] theorem State.takeTurn_cfg (s : State) : (s.takeTurn).cfg = s.cfg := rfl
@[simp] theorem State.takeTurn_qmem (s : State) : (s.takeTurn).qmem = s.qmem := rfl
@[simp] theorem State.takeTurn_wptr (s : State) : (s.takeTurn).wptr = s.wptr := rfl
@[simp] theorem State.takeTurn_rptr (s : State) : (s.takeTurn).rptr = s.rptr := rfl
@[simp] theorem State.takeTurn_wqSync (s : State) : (s.takeTurn).wqSync = s.wqSync := rfl
@[simp] theorem State.takeTurn_rqSync (s : State) : (s.takeTurn).rqSync = s.rqSync := rfl
@[simp] theorem State.takeTurn_ckA (s : State) : (s.takeTurn).ckA = s.ckA := rfl
@[simp] theorem State.takeTurn_ckB (s : State) : (s.takeTurn).ckB = s.ckB := rfl
@[simp] theorem State.takeTurn_plane (s : State) : (s.takeTurn).plane = s.plane := rfl
@[simp] theorem State.takeTurn_win (s : State) : (s.takeTurn).win = s.win := rfl
@[simp] theorem State.takeTurn_sum (s : State) : (s.takeTurn).sum = s.sum := rfl
@[simp] theorem State.takeTurn_widx (s : State) : (s.takeTurn).widx = s.widx := rfl
@[simp] theorem State.takeTurn_faultCause (s : State) : (s.takeTurn).faultCause = s.faultCause := rfl
@[simp] theorem State.takeTurn_faultPort (s : State) : (s.takeTurn).faultPort = s.faultPort := rfl
@[simp] theorem State.takeTurn_faultWord (s : State) : (s.takeTurn).faultWord = s.faultWord := rfl
@[simp] theorem State.takeTurn_out (s : State) : (s.takeTurn).out = s.out := rfl
@[simp] theorem State.takeTurn_respP (s : State) : (s.takeTurn).respP = s.respP := rfl
@[simp] theorem State.takeTurn_respM (s : State) : (s.takeTurn).respM = s.respM := rfl
@[simp] theorem State.takeTurn_streamP (s : State) : (s.takeTurn).streamP = s.streamP := rfl
@[simp] theorem State.takeTurn_streamM (s : State) : (s.takeTurn).streamM = s.streamM := rfl
@[simp] theorem State.takeTurn_streamS (s : State) : (s.takeTurn).streamS = s.streamS := rfl
@[simp] theorem State.takeTurn_schedule (s : State) : (s.takeTurn).schedule = s.turns.tail := rfl
@[simp] theorem State.takeTurn_port (s : State) : (s.takeTurn).port = s.port := rfl
@[simp] theorem State.takeTurn_round (s : State) :
    (s.takeTurn).round = if s.schedule = [] then s.round + 1 else s.round := rfl

/-! `respond`: by the issuing port -/

@[simp] theorem State.respond_cfg (s : State) (v : Response) :
    (s.respond v).cfg = s.cfg := by
  unfold State.respond; split <;> rfl
@[simp] theorem State.respond_qmem (s : State) (v : Response) :
    (s.respond v).qmem = s.qmem := by
  unfold State.respond; split <;> rfl
@[simp] theorem State.respond_wptr (s : State) (v : Response) :
    (s.respond v).wptr = s.wptr := by
  unfold State.respond; split <;> rfl
@[simp] theorem State.respond_rptr (s : State) (v : Response) :
    (s.respond v).rptr = s.rptr := by
  unfold State.respond; split <;> rfl
@[simp] theorem State.respond_wqSync (s : State) (v : Response) :
    (s.respond v).wqSync = s.wqSync := by
  unfold State.respond; split <;> rfl
@[simp] theorem State.respond_rqSync (s : State) (v : Response) :
    (s.respond v).rqSync = s.rqSync := by
  unfold State.respond; split <;> rfl
@[simp] theorem State.respond_ckA (s : State) (v : Response) :
    (s.respond v).ckA = s.ckA := by
  unfold State.respond; split <;> rfl
@[simp] theorem State.respond_ckB (s : State) (v : Response) :
    (s.respond v).ckB = s.ckB := by
  unfold State.respond; split <;> rfl
@[simp] theorem State.respond_plane (s : State) (v : Response) :
    (s.respond v).plane = s.plane := by
  unfold State.respond; split <;> rfl
@[simp] theorem State.respond_win (s : State) (v : Response) :
    (s.respond v).win = s.win := by
  unfold State.respond; split <;> rfl
@[simp] theorem State.respond_sum (s : State) (v : Response) :
    (s.respond v).sum = s.sum := by
  unfold State.respond; split <;> rfl
@[simp] theorem State.respond_widx (s : State) (v : Response) :
    (s.respond v).widx = s.widx := by
  unfold State.respond; split <;> rfl
@[simp] theorem State.respond_faultCause (s : State) (v : Response) :
    (s.respond v).faultCause = s.faultCause := by
  unfold State.respond; split <;> rfl
@[simp] theorem State.respond_faultPort (s : State) (v : Response) :
    (s.respond v).faultPort = s.faultPort := by
  unfold State.respond; split <;> rfl
@[simp] theorem State.respond_faultWord (s : State) (v : Response) :
    (s.respond v).faultWord = s.faultWord := by
  unfold State.respond; split <;> rfl
@[simp] theorem State.respond_out (s : State) (v : Response) :
    (s.respond v).out = s.out := by
  unfold State.respond; split <;> rfl
@[simp] theorem State.respond_streamP (s : State) (v : Response) :
    (s.respond v).streamP = s.streamP := by
  unfold State.respond; split <;> rfl
@[simp] theorem State.respond_streamM (s : State) (v : Response) :
    (s.respond v).streamM = s.streamM := by
  unfold State.respond; split <;> rfl
@[simp] theorem State.respond_streamS (s : State) (v : Response) :
    (s.respond v).streamS = s.streamS := by
  unfold State.respond; split <;> rfl
@[simp] theorem State.respond_schedule (s : State) (v : Response) :
    (s.respond v).schedule = s.schedule := by
  unfold State.respond; split <;> rfl
@[simp] theorem State.respond_port (s : State) (v : Response) :
    (s.respond v).port = s.port := by
  unfold State.respond; split <;> rfl
@[simp] theorem State.respond_round (s : State) (v : Response) :
    (s.respond v).round = s.round := by
  unfold State.respond; split <;> rfl

theorem State.respond_of_p {s : State} (h : s.port = .p) (v : Response) : s.respond v = s.respondP v := by
  simp [State.respond, h]

theorem State.respond_of_m {s : State} (h : s.port = .m) (v : Response) : s.respond v = s.respondM v := by
  simp [State.respond, h]

/-! `setStream` and `advance`: by the port -/

@[simp] theorem State.setStream_cfg (s : State) (q : Port) (v : CommandStream) :
    (s.setStream q v).cfg = s.cfg := by
  cases q <;> rfl
@[simp] theorem State.setStream_qmem (s : State) (q : Port) (v : CommandStream) :
    (s.setStream q v).qmem = s.qmem := by
  cases q <;> rfl
@[simp] theorem State.setStream_wptr (s : State) (q : Port) (v : CommandStream) :
    (s.setStream q v).wptr = s.wptr := by
  cases q <;> rfl
@[simp] theorem State.setStream_rptr (s : State) (q : Port) (v : CommandStream) :
    (s.setStream q v).rptr = s.rptr := by
  cases q <;> rfl
@[simp] theorem State.setStream_wqSync (s : State) (q : Port) (v : CommandStream) :
    (s.setStream q v).wqSync = s.wqSync := by
  cases q <;> rfl
@[simp] theorem State.setStream_rqSync (s : State) (q : Port) (v : CommandStream) :
    (s.setStream q v).rqSync = s.rqSync := by
  cases q <;> rfl
@[simp] theorem State.setStream_ckA (s : State) (q : Port) (v : CommandStream) :
    (s.setStream q v).ckA = s.ckA := by
  cases q <;> rfl
@[simp] theorem State.setStream_ckB (s : State) (q : Port) (v : CommandStream) :
    (s.setStream q v).ckB = s.ckB := by
  cases q <;> rfl
@[simp] theorem State.setStream_plane (s : State) (q : Port) (v : CommandStream) :
    (s.setStream q v).plane = s.plane := by
  cases q <;> rfl
@[simp] theorem State.setStream_win (s : State) (q : Port) (v : CommandStream) :
    (s.setStream q v).win = s.win := by
  cases q <;> rfl
@[simp] theorem State.setStream_sum (s : State) (q : Port) (v : CommandStream) :
    (s.setStream q v).sum = s.sum := by
  cases q <;> rfl
@[simp] theorem State.setStream_widx (s : State) (q : Port) (v : CommandStream) :
    (s.setStream q v).widx = s.widx := by
  cases q <;> rfl
@[simp] theorem State.setStream_faultCause (s : State) (q : Port) (v : CommandStream) :
    (s.setStream q v).faultCause = s.faultCause := by
  cases q <;> rfl
@[simp] theorem State.setStream_faultPort (s : State) (q : Port) (v : CommandStream) :
    (s.setStream q v).faultPort = s.faultPort := by
  cases q <;> rfl
@[simp] theorem State.setStream_faultWord (s : State) (q : Port) (v : CommandStream) :
    (s.setStream q v).faultWord = s.faultWord := by
  cases q <;> rfl
@[simp] theorem State.setStream_out (s : State) (q : Port) (v : CommandStream) :
    (s.setStream q v).out = s.out := by
  cases q <;> rfl
@[simp] theorem State.setStream_respP (s : State) (q : Port) (v : CommandStream) :
    (s.setStream q v).respP = s.respP := by
  cases q <;> rfl
@[simp] theorem State.setStream_respM (s : State) (q : Port) (v : CommandStream) :
    (s.setStream q v).respM = s.respM := by
  cases q <;> rfl
@[simp] theorem State.setStream_schedule (s : State) (q : Port) (v : CommandStream) :
    (s.setStream q v).schedule = s.schedule := by
  cases q <;> rfl
@[simp] theorem State.setStream_port (s : State) (q : Port) (v : CommandStream) :
    (s.setStream q v).port = s.port := by
  cases q <;> rfl
@[simp] theorem State.setStream_round (s : State) (q : Port) (v : CommandStream) :
    (s.setStream q v).round = s.round := by
  cases q <;> rfl
@[simp] theorem State.advance_cfg (s : State) : s.advance.cfg = s.cfg := by simp [State.advance]
@[simp] theorem State.advance_qmem (s : State) : s.advance.qmem = s.qmem := by simp [State.advance]
@[simp] theorem State.advance_wptr (s : State) : s.advance.wptr = s.wptr := by simp [State.advance]
@[simp] theorem State.advance_rptr (s : State) : s.advance.rptr = s.rptr := by simp [State.advance]
@[simp] theorem State.advance_wqSync (s : State) : s.advance.wqSync = s.wqSync := by simp [State.advance]
@[simp] theorem State.advance_rqSync (s : State) : s.advance.rqSync = s.rqSync := by simp [State.advance]
@[simp] theorem State.advance_ckA (s : State) : s.advance.ckA = s.ckA := by simp [State.advance]
@[simp] theorem State.advance_ckB (s : State) : s.advance.ckB = s.ckB := by simp [State.advance]
@[simp] theorem State.advance_plane (s : State) : s.advance.plane = s.plane := by simp [State.advance]
@[simp] theorem State.advance_win (s : State) : s.advance.win = s.win := by simp [State.advance]
@[simp] theorem State.advance_sum (s : State) : s.advance.sum = s.sum := by simp [State.advance]
@[simp] theorem State.advance_widx (s : State) : s.advance.widx = s.widx := by simp [State.advance]
@[simp] theorem State.advance_faultCause (s : State) :
    s.advance.faultCause = s.faultCause := by simp [State.advance]
@[simp] theorem State.advance_faultPort (s : State) :
    s.advance.faultPort = s.faultPort := by simp [State.advance]
@[simp] theorem State.advance_faultWord (s : State) :
    s.advance.faultWord = s.faultWord := by simp [State.advance]
@[simp] theorem State.advance_out (s : State) : s.advance.out = s.out := by simp [State.advance]
@[simp] theorem State.advance_respP (s : State) : s.advance.respP = s.respP := by simp [State.advance]
@[simp] theorem State.advance_respM (s : State) : s.advance.respM = s.respM := by simp [State.advance]
@[simp] theorem State.advance_schedule (s : State) :
    s.advance.schedule = s.schedule := by simp [State.advance]
@[simp] theorem State.advance_port (s : State) : s.advance.port = s.port := by simp [State.advance]
@[simp] theorem State.advance_round (s : State) : s.advance.round = s.round := by simp [State.advance]

theorem State.advance_of_p {s : State} (h : s.port = .p) :
    s.advance = { s with streamP := s.streamP.tail } := by
  simp [State.advance, h, State.stream, State.setStream, State.setStreamP]

theorem State.advance_of_m {s : State} (h : s.port = .m) :
    s.advance = { s with streamM := s.streamM.tail } := by
  simp [State.advance, h, State.stream, State.setStream, State.setStreamM]

theorem State.advance_of_s {s : State} (h : s.port = .s) :
    s.advance = { s with streamS := s.streamS.tail } := by
  simp [State.advance, h, State.stream, State.setStream, State.setStreamS]

/-- A stream after `setStream`: the named port's is the new one, the others are as before. -/
theorem State.stream_setStream (s : State) (q r : Port) (v : CommandStream) :
    (s.setStream q v).stream r = if r = q then v else s.stream r := by
  cases q <;> cases r <;> rfl

/-- A stream after `advance`: the issuing port's has lost its head, the others are as before. -/
theorem State.stream_advance (s : State) (r : Port) :
    s.advance.stream r = if r = s.port then (s.stream r).tail else s.stream r := by
  rw [State.advance, State.stream_setStream]
  split <;> simp_all

/-! `stream` reads nothing but the three streams. -/

theorem State.stream_congr {s t : State} (hp : t.streamP = s.streamP) (hm : t.streamM = s.streamM)
    (hs : t.streamS = s.streamS) (q : Port) : t.stream q = s.stream q := by
  cases q <;> assumption

/-! Streams. -/

@[simp] theorem CommandStream.head_cons (w : Word) (ws : List Word) (e : Option Endless) :
    CommandStream.head ⟨w :: ws, e⟩ = some w := rfl
@[simp] theorem CommandStream.head_endless (e : Endless) :
    CommandStream.head ⟨[], some e⟩ = some (Config.hostWord e.source e.next) := rfl
@[simp] theorem CommandStream.head_nil : CommandStream.head ⟨[], none⟩ = none := rfl
@[simp] theorem CommandStream.tail_cons (w : Word) (ws : List Word) (e : Option Endless) :
    CommandStream.tail ⟨w :: ws, e⟩ = ⟨ws, e⟩ := rfl
@[simp] theorem CommandStream.tail_endless (e : Endless) :
    CommandStream.tail ⟨[], some e⟩ = ⟨[], some ⟨e.source, e.next + 1⟩⟩ := rfl
@[simp] theorem CommandStream.tail_nil : CommandStream.tail ⟨[], none⟩ = ⟨[], none⟩ := rfl
@[simp] theorem CommandStream.head_prepend_cons (w : Word) (ws : List Word) (st : CommandStream) :
    (CommandStream.prepend (w :: ws) st).head = some w := rfl
@[simp] theorem CommandStream.tail_prepend_cons (w : Word) (ws : List Word) (st : CommandStream) :
    (CommandStream.prepend (w :: ws) st).tail = CommandStream.prepend ws st := rfl
@[simp] theorem CommandStream.prepend_nil (st : CommandStream) : CommandStream.prepend [] st = st := rfl

/-- A stream that has lost its head is another stream, where it had one. -/
theorem CommandStream.tail_ne {st : CommandStream} (h : st.head ≠ none) : st.tail ≠ st := by
  obtain ⟨ws, e⟩ := st
  cases ws with
  | cons w ws => simp
  | nil =>
    cases e with
    | none => exact absurd rfl h
    | some e =>
      obtain ⟨source, next⟩ := e
      simp

/-! Turns. -/

/-- Where the schedule names an agent, it has the turn and the round stays. -/
theorem State.turn_of_cons {s : State} {a : Agent} {rest : List Agent} (h : s.schedule = a :: rest) :
    s.turn = a ∧ s.takeTurn = { s with schedule := rest } := by
  simp [State.turn, State.takeTurn, State.turns, h]

/-- Where the schedule is used up, the next round begins. -/
theorem State.turns_of_nil {s : State} (h : s.schedule = []) : s.turns = roundTurns s.round := by
  simp [State.turns, h]

/-- The fair turns pass to each agent but the reset input, from every round on. -/
theorem fairAgent_visits {a : Agent} (h : a ≠ .reset) (n : Nat) : ∃ m, n ≤ m ∧ fairAgent m = a := by
  have hm (k : Nat) (hk : k < 5) : n ≤ 5 * n + k ∧ (5 * n + k) % 5 = k := by omega
  cases a with
  | reset => exact absurd rfl h
  | syncW => exact ⟨5 * n + 0, (hm 0 (by omega)).1, by rw [fairAgent, (hm 0 (by omega)).2]; rfl⟩
  | syncR => exact ⟨5 * n + 1, (hm 1 (by omega)).1, by rw [fairAgent, (hm 1 (by omega)).2]; rfl⟩
  | port q =>
    cases q with
    | p => exact ⟨5 * n + 2, (hm 2 (by omega)).1, by rw [fairAgent, (hm 2 (by omega)).2]; rfl⟩
    | m => exact ⟨5 * n + 3, (hm 3 (by omega)).1, by rw [fairAgent, (hm 3 (by omega)).2]; rfl⟩
    | s => exact ⟨5 * n + 4, (hm 4 (by omega)).1, by rw [fairAgent, (hm 4 (by omega)).2]; rfl⟩

/-! A running block. -/

@[simp] theorem State.faulted_eq_true (s : State) : s.faulted = true ↔ s.faultCause ≠ 0 := by
  simp [State.faulted]

@[simp] theorem State.faulted_eq_false (s : State) : s.faulted = false ↔ s.faultCause = 0 := by
  simp [State.faulted]

end Sys2Proof.Machine
end

