-- ==== Sys2Proof/Laws/Meanings.lean ====
section
/-! SUPPORT. What each shared operation and each meaning can do, said once. For each meaning there is one lemma: if it
answers a next state, then its parameters are legal and one of the listed cases holds (fault recorded before: nothing;
a fault entry; the command's own effect). -/

namespace Sys2Proof.Machine

@[simp] theorem hold_eq (s : State) : hold s = .next s := rfl
@[simp] theorem complete_eq (s : State) : complete s = .next s.advance := rfl
@[simp] theorem raise_eq (c : FaultCause) (w : Word) (s : State) :
    raise c w s = .next (s.latch c.code (portCode s.port) w) := rfl

/-- The fault code of a cause is none of 0, 6 and 7 (60_exceptions.md R220). -/
theorem FaultCause.code_bounds (c : FaultCause) : c.code ≠ 0 ∧ c.code.toNat ≤ 5 := by
  cases c <;> decide

theorem portCode_ne (q : Port) : portCode q ≠ 3 := by
  cases q <;> decide

/-- Acceptance in a running block on a port that may issue the opcode: the command's rule. -/
theorem accept_of_allowed {w : Word} {body : State → Host.Outcome State Fault Refusal} {s : State}
    (h : s.Running) (hp : s.port ∈ opcodePorts (fieldOp w)) : accept w body s = body s := by
  simp [accept, h.1, h.2, hp, State.faulted]

/-- Acceptance in a running block on another port: WRONG_PORT (R222). -/
theorem accept_of_wrongPort {w : Word} {body : State → Host.Outcome State Fault Refusal} {s : State}
    (h : s.Running) (hp : s.port ∉ opcodePorts (fieldOp w)) :
    accept w body s = .next (s.latch 2 (portCode s.port) w) := by
  simp [accept, h.1, h.2, hp, State.faulted, FaultCause.code]

/-- Acceptance while a fault is recorded: nothing (R227). -/
theorem accept_of_faulted {w : Word} {body : State → Host.Outcome State Fault Refusal} {s : State}
    (hl : s.cfg.legal = true) (hf : s.faultCause ≠ 0) : accept w body s = .next s := by
  have hf : s.faulted = true := by simpa using hf
  simp [accept, hl, hf]

/-- Acceptance with parameters that break R6. -/
theorem accept_of_illegal {w : Word} {body : State → Host.Outcome State Fault Refusal} {s : State}
    (hl : s.cfg.legal = false) : accept w body s = .refused .illegalParameters := by
  simp [accept, hl]

/-- Everything acceptance can do, when it answers a next state. -/
theorem accept_next {w : Word} {body : State → Host.Outcome State Fault Refusal} {s t : State}
    (h : accept w body s = .next t) :
    s.cfg.legal = true ∧
      ((s.faultCause ≠ 0 ∧ t = s) ∨
        (s.faultCause = 0 ∧ s.port ∉ opcodePorts (fieldOp w) ∧ t = s.latch 2 (portCode s.port) w) ∨
        (s.faultCause = 0 ∧ s.port ∈ opcodePorts (fieldOp w) ∧ body s = .next t)) := by
  unfold accept at h
  split at h
  · rename_i hl
    refine ⟨hl, ?_⟩
    split at h
    · rename_i hf
      exact .inl ⟨by simpa using hf, by simpa using h.symm⟩
    · rename_i hf
      have hf : s.faultCause = 0 := by simpa using hf
      split at h
      · rename_i hp
        exact .inr (.inr ⟨hf, hp, h⟩)
      · rename_i hp
        exact .inr (.inl ⟨hf, hp, by simpa [FaultCause.code] using h.symm⟩)
  · cases h

/-- A command entered no rule of its own: a recorded fault held it, or a fault entry was its only effect. -/
def Untouched (s t : State) : Prop :=
  (s.faultCause ≠ 0 ∧ t = s) ∨
  (s.faultCause = 0 ∧ ∃ c w, t = s.latch (FaultCause.code c) (portCode s.port) w)

/-- What a meaning can do, in one form: `Untouched`, or, on an allowed port of a running block, its rule. -/
theorem accept_cases {w : Word} {body : State → Host.Outcome State Fault Refusal} {s t : State}
    (h : accept w body s = .next t) :
    Untouched s t ∨ (s.Running ∧ s.port ∈ opcodePorts (fieldOp w) ∧ body s = .next t) := by
  obtain ⟨hl, hf | hp | hb⟩ := accept_next h
  · exact .inl (.inl hf)
  · exact .inl (.inr ⟨hp.1, .wrongPort, w, hp.2.2⟩)
  · exact .inr ⟨⟨hl, hb.1⟩, hb.2⟩

theorem execQAppend_cases {d : Byte} {s t : State} (h : execQAppend d s = .next t) :
    Untouched s t ∨
      (s.Running ∧ s.port = .p ∧
        ((s.producerFull = true ∧ t = s.advance) ∨
          (s.producerFull = false ∧ t = (publishWriteDirect (storeByte d s)).advance))) := by
  rcases accept_cases h with h | ⟨hr, hp, hb⟩
  · exact .inl h
  · refine .inr ⟨hr, by simpa using hp, ?_⟩
    cases hf : s.producerFull <;> simp_all

theorem execQPop_cases {s t : State} (h : execQPop s = .next t) :
    Untouched s t ∨
      (s.Running ∧ s.port = .m ∧
        ((s.consumerEmpty = true ∧ t = s) ∨
          (s.consumerEmpty = false ∧ ∃ v, memRead s.qmem (s.slotOf s.rptr) = some v ∧
            t = ((publishReadDirect (s.setRptr (ringNext s.cfg.ringSize s.rptr))).respond
              (.byte v)).advance))) := by
  rcases accept_cases h with h | ⟨hr, hp, hb⟩
  · exact .inl h
  · refine .inr ⟨hr, by simpa using hp, ?_⟩
    cases he : s.consumerEmpty
    · simp only [he, Bool.false_eq_true, if_false] at hb
      cases hm : memRead s.qmem (s.slotOf s.rptr) with
      | none => simp [hm] at hb
      | some v =>
        simp only [hm, complete_eq, Host.Outcome.next.injEq] at hb
        exact .inr ⟨rfl, v, rfl, hb.symm⟩
    · simp_all

theorem execQIsEmpty_cases {s t : State} (h : execQIsEmpty s = .next t) :
    Untouched s t ∨
      (s.Running ∧ (s.port = .p ∨ s.port = .m) ∧
        t = (s.respond (.bit (BitVec.ofBool (s.emptyOn s.port)))).advance) := by
  rcases accept_cases h with h | ⟨hr, hp, hb⟩
  · exact .inl h
  · exact .inr ⟨hr, by simpa using hp, by simpa using hb.symm⟩

theorem execCkReset_cases {s t : State} (h : execCkReset s = .next t) :
    Untouched s t ∨ (s.Running ∧ s.port = .m ∧ t = (s.setChecksum 0 0).advance) := by
  rcases accept_cases h with h | ⟨hr, hp, hb⟩
  · exact .inl h
  · exact .inr ⟨hr, by simpa using hp, by simpa using hb.symm⟩

theorem execCkUpdate_cases {d : Byte} {s t : State} (h : execCkUpdate d s = .next t) :
    Untouched s t ∨
      (s.Running ∧ s.port = .m ∧
        t = (s.setChecksum (s.ckA + d) (s.ckB + (s.ckA + d))).advance) := by
  rcases accept_cases h with h | ⟨hr, hp, hb⟩
  · exact .inl h
  · exact .inr ⟨hr, by simpa using hp, by simpa [foldByte] using hb.symm⟩

theorem execCkRead_cases {s t : State} (h : execCkRead s = .next t) :
    Untouched s t ∨
      (s.Running ∧ s.port = .m ∧ t = (s.respondM (.word (checksumWord s))).advance) := by
  rcases accept_cases h with h | ⟨hr, hp, hb⟩
  · exact .inl h
  · have hp : s.port = .m := by simpa using hp
    exact .inr ⟨hr, hp, by simpa [State.respond_of_m hp] using hb.symm⟩

theorem execTpSetDigit_cases {i : Index} {m : Byte} {s t : State} (h : execTpSetDigit i m s = .next t) :
    Untouched s t ∨
      (s.Running ∧ s.port = .m ∧ digitLegal s.cfg i = true ∧ t = (writeDigit i m s).advance) := by
  rcases accept_cases h with h | ⟨hr, hp, hb⟩
  · exact .inl h
  · cases hd : digitLegal s.cfg i
    · simp only [hd, Bool.false_eq_true, if_false, raise_eq, Host.Outcome.next.injEq] at hb
      exact .inl (.inr ⟨hr.2, _, _, hb.symm⟩)
    · exact .inr ⟨hr, by simpa using hp, rfl, by simpa [hd] using hb.symm⟩

theorem execTpSetDigitBcd_cases {i : Index} {v : Byte} {s t : State}
    (h : execTpSetDigitBcd i v s = .next t) :
    Untouched s t ∨
      (s.Running ∧ s.port = .m ∧ digitLegal s.cfg i = true ∧ bcdLegal v = true ∧
        t = (writeDigit i (bcdMask s.cfg v) s).advance) := by
  rcases accept_cases h with h | ⟨hr, hp, hb⟩
  · exact .inl h
  · cases hd : digitLegal s.cfg i
    · simp only [hd, Bool.false_eq_true, if_false, raise_eq, Host.Outcome.next.injEq] at hb
      exact .inl (.inr ⟨hr.2, _, _, hb.symm⟩)
    · cases hv : bcdLegal v
      · simp only [hd, hv, Bool.false_eq_true, if_false, if_true, raise_eq,
          Host.Outcome.next.injEq] at hb
        exact .inl (.inr ⟨hr.2, _, _, hb.symm⟩)
      · exact .inr ⟨hr, by simpa using hp, rfl, rfl, by simpa [hd, hv] using hb.symm⟩

theorem execTpClear_cases {s t : State} (h : execTpClear s = .next t) :
    Untouched s t ∨ (s.Running ∧ s.port = .m ∧ t = (s.setPlane zeroPlanes).advance) := by
  rcases accept_cases h with h | ⟨hr, hp, hb⟩
  · exact .inl h
  · exact .inr ⟨hr, by simpa using hp, by simpa using hb.symm⟩

theorem execTpFlush_cases {s t : State} (h : execTpFlush s = .next t) :
    Untouched s t ∨ (s.Running ∧ s.port = .m ∧ t = (s.emitAll .flush (flushPairs s.plane)).advance) := by
  rcases accept_cases h with h | ⟨hr, hp, hb⟩
  · exact .inl h
  · exact .inr ⟨hr, by simpa using hp, by simpa using hb.symm⟩

theorem execTpInit_cases {s t : State} (h : execTpInit s = .next t) :
    Untouched s t ∨ (s.Running ∧ s.port = .m ∧ t = (s.emitAll .init (initPairs s.cfg)).advance) := by
  rcases accept_cases h with h | ⟨hr, hp, hb⟩
  · exact .inl h
  · exact .inr ⟨hr, by simpa using hp, by simpa using hb.symm⟩

theorem execTpShowNoSignal_cases {v : Byte} {s t : State} (h : execTpShowNoSignal v s = .next t) :
    Untouched s t ∨
      (s.Running ∧ s.port = .m ∧
        t = (s.setPlane (noSignalPlanes (s.cfg.permAt (tickDigit s.cfg v)))).advance) := by
  rcases accept_cases h with h | ⟨hr, hp, hb⟩
  · exact .inl h
  · exact .inr ⟨hr, by simpa using hp, by simpa using hb.symm⟩

theorem execMaSample_cases {r : Sample} {s t : State} (h : execMaSample r s = .next t) :
    Untouched s t ∨ (s.Running ∧ s.port = .s ∧ t = (emitIntensity (integrate r s)).advance) := by
  rcases accept_cases h with h | ⟨hr, hp, hb⟩
  · exact .inl h
  · exact .inr ⟨hr, by simpa using hp, by simpa using hb.symm⟩

/-- The reserved opcodes do nothing but fault. -/
theorem execReservedD_cases {x : BitVec 12} {s t : State} (h : execReservedD x s = .next t) :
    Untouched s t := by
  rcases accept_cases h with h | ⟨hr, -, hb⟩
  · exact h
  · exact .inr ⟨hr.2, _, _, by simpa using hb.symm⟩

theorem execReservedE_cases {x : BitVec 12} {s t : State} (h : execReservedE x s = .next t) :
    Untouched s t := by
  rcases accept_cases h with h | ⟨hr, -, hb⟩
  · exact h
  · exact .inr ⟨hr.2, _, _, by simpa using hb.symm⟩

theorem execReservedF_cases {x : BitVec 12} {s t : State} (h : execReservedF x s = .next t) :
    Untouched s t := by
  rcases accept_cases h with h | ⟨hr, -, hb⟩
  · exact h
  · exact .inr ⟨hr.2, _, _, by simpa using hb.symm⟩

/-- A rejected word does nothing but fault. -/
theorem rejectWord_cases {w : Word} {s t : State} (h : rejectWord w s = .next t) : Untouched s t := by
  rcases accept_cases h with h | ⟨hr, -, hb⟩
  · exact h
  · exact .inr ⟨hr.2, _, _, by simpa using hb.symm⟩

/-- What presenting a word does: a decoded command's meaning, or a fault entry. -/
theorem runWord_cases {w : Word} {s t : State} (h : runWord w s = .next t) :
    Untouched s t ∨ ∃ i, decode w = .ok i ∧ exec i s = .next t := by
  unfold runWord at h
  split at h
  · rename_i i hi
    exact .inr ⟨i, hi, h⟩
  · exact .inl (rejectWord_cases h)

/-- Everything an agent's step can do, when it answers a next state. -/
theorem agentStep_cases {a : Agent} {s t : State} (h : agentStep a s = .next t) :
    s.cfg.legal = true ∧
      ((a = .reset ∧ t = s.resetStep) ∨ (a ≠ .reset ∧ t = s) ∨
        (a = .syncW ∧ s.faultCause = 0 ∧ s.cfg.syncMode = .gray ∧ t = publishWrite s) ∨
        (a = .syncR ∧ s.faultCause = 0 ∧ s.cfg.syncMode = .gray ∧ t = publishRead s) ∨
        ∃ q w, a = .port q ∧ s.faultCause = 0 ∧ (s.stream q).head = some w ∧
          runWord w (s.setPort q) = .next t) := by
  unfold agentStep at h
  split at h
  · rename_i hl
    refine ⟨hl, ?_⟩
    cases a with
    | reset => exact .inl ⟨rfl, by simpa using h.symm⟩
    | syncW =>
      cases hf : s.faulted <;> simp only [hf, Bool.false_eq_true, if_false, if_true,
        Host.Outcome.next.injEq] at h
      · unfold syncWriteStep at h
        split at h
        · rename_i hg
          exact .inr (.inr (.inl ⟨rfl, by simpa using hf, hg, h.symm⟩))
        · exact .inr (.inl ⟨by simp, h.symm⟩)
      · exact .inr (.inl ⟨by simp, h.symm⟩)
    | syncR =>
      cases hf : s.faulted <;> simp only [hf, Bool.false_eq_true, if_false, if_true,
        Host.Outcome.next.injEq] at h
      · unfold syncReadStep at h
        split at h
        · rename_i hg
          exact .inr (.inr (.inr (.inl ⟨rfl, by simpa using hf, hg, h.symm⟩)))
        · exact .inr (.inl ⟨by simp, h.symm⟩)
      · exact .inr (.inl ⟨by simp, h.symm⟩)
    | port q =>
      cases hf : s.faulted <;> simp only [hf, Bool.false_eq_true, if_false, if_true,
        Host.Outcome.next.injEq] at h
      · unfold portStep at h
        split at h
        · exact .inr (.inl ⟨by simp, by simpa using h.symm⟩)
        · rename_i w hw
          exact .inr (.inr (.inr (.inr ⟨q, w, rfl, by simpa using hf, hw, h⟩)))
      · exact .inr (.inl ⟨by simp, h.symm⟩)
  · cases h

end Sys2Proof.Machine
end

