-- ==== Sys2Proof/Laws/Memory.lean ====
section
/-! SUPPORT. The laws of the queue storage: a read after a write, and the canonical form (10_state.md R25, 20_memory.md
R60, R65). -/

namespace Sys2Proof.Machine

@[simp] theorem memRead_nil (a : Nat) : memRead [] a = none := rfl

/-- A read of the element just written gives the value written. -/
@[simp] theorem memRead_memWrite_same (a : Nat) (v : Byte) (m : List Host.Cell) :
    memRead (memWrite a v m) a = some v := by
  induction m with
  | nil => simp [memWrite, memRead]
  | cons c rest ih =>
    obtain ⟨b, x⟩ := c
    unfold memWrite
    split
    · simp [memRead]
    · split
      · simp [memRead]
      · rename_i hne
        simpa [memRead, hne] using ih

/-- A write leaves every other element alone. -/
theorem memRead_memWrite_other {a b : Nat} (h : b ≠ a) (v : Byte) (m : List Host.Cell) :
    memRead (memWrite a v m) b = memRead m b := by
  induction m with
  | nil => simp [memWrite, memRead, h]
  | cons c rest ih =>
    obtain ⟨k, x⟩ := c
    unfold memWrite
    split
    · simp [memRead, h]
    · split
      · rename_i hk
        subst hk
        simp [memRead, h]
      · simp [memRead, ih]

/-- The cells of a memory after a write are the old ones and the one written. -/
theorem mem_memWrite {a : Nat} {v : Byte} {m : List Host.Cell} {c : Host.Cell}
    (h : c ∈ memWrite a v m) : c = (a, v) ∨ c ∈ m := by
  induction m with
  | nil => simpa [memWrite] using h
  | cons d rest ih =>
    obtain ⟨k, x⟩ := d
    unfold memWrite at h
    split at h
    · simpa using h
    · split at h
      · simp only [List.mem_cons] at h ⊢
        tauto
      · simp only [List.mem_cons] at h ⊢
        rcases h with h | h
        · tauto
        · rcases ih h with h | h <;> tauto

/-- A write keeps the canonical form. -/
theorem memWrite_wf {m : List Host.Cell} (h : Memory.wf m) (a : Nat) (v : Byte) :
    Memory.wf (memWrite a v m) := by
  induction m with
  | nil => simp [memWrite]
  | cons d rest ih =>
    obtain ⟨k, x⟩ := d
    have hk := List.pairwise_cons.mp h
    unfold memWrite
    split
    · rename_i hlt
      refine List.pairwise_cons.mpr ⟨fun c hc => ?_, h⟩
      rcases List.mem_cons.mp hc with rfl | hc
      · exact hlt
      · exact Nat.lt_trans hlt (hk.1 c hc)
    · split
      · rename_i heq
        subst heq
        exact List.pairwise_cons.mpr ⟨hk.1, hk.2⟩
      · rename_i hlt hne
        refine List.pairwise_cons.mpr ⟨fun c hc => ?_, ih hk.2⟩
        rcases mem_memWrite hc with rfl | hc
        · exact Nat.lt_of_le_of_ne (Nat.le_of_not_lt hlt) (Ne.symm hne)
        · exact hk.1 c hc

/-- An element reads as a value exactly where its cell is listed, in the canonical form. -/
theorem memRead_eq_some {m : List Host.Cell} (h : Memory.wf m) {a : Nat} {v : Byte} :
    memRead m a = some v ↔ (a, v) ∈ m := by
  induction m with
  | nil => simp
  | cons d rest ih =>
    obtain ⟨k, x⟩ := d
    have hk := List.pairwise_cons.mp h
    rw [memRead]
    split
    · rename_i heq
      subst heq
      refine ⟨fun e => by simp_all, fun hm => ?_⟩
      rcases List.mem_cons.mp hm with e | e
      · simp_all
      · exact absurd (hk.1 _ e) (Nat.lt_irrefl _)
    · rename_i hne
      rw [ih hk.2]
      simp [hne]

end Sys2Proof.Machine
end

