-- ==== Sys2Proof/Laws/Operands.lean ====
section
/-! SUPPORT. What the operand checks and the parameter check say, unfolded once (00_scope.md R6, 30_encoding.md R92,
42_plane_transposer.md R171). -/

namespace Sys2Proof

/-- The conditions of R6, the values the rules fix (log entry 3) and `IDIV ≥ 1`, `D ≥ 1` (log entry 2), one by one. -/
theorem Config.legal_iff (c : Config) :
    c.legal = true ↔
      1 ≤ c.qaw ∧ 1 ≤ c.digits ∧ c.perm.length = c.digits ∧ c.perm.Nodup ∧ 2 ^ Nat.log2 c.w = c.w ∧
        1 ≤ c.idiv ∧ (2 ^ c.sw - 1) / c.idiv ≤ 15 ∧ c.sw + Nat.log2 c.w ≤ c.sumw ∧ c.qdw = 8 ∧ c.nplanes = 8 ∧
        c.bcd = Config.bcdTable ∧ 10 ≤ c.sw := by
  simp only [Config.legal, Config.windowIsPowerOfTwo, Config.fixedValues, Bool.and_eq_true, decide_eq_true_eq,
    beq_iff_eq]
  tauto

end Sys2Proof

namespace Sys2Proof.Machine

theorem digitLegal_iff (c : Config) (i : Index) :
    digitLegal c i = true ↔ 1 ≤ i.toNat ∧ i.toNat ≤ c.digits := by
  simp only [digitLegal, Bool.and_eq_true, decide_eq_true_eq]

theorem bcdLegal_iff (v : Byte) : bcdLegal v = true ↔ v.extractLsb' 4 3 = 0#3 := by
  simp [bcdLegal]

/-- The well-formedness checks are those of the commands' rules. -/
theorem legalDigit_eq (c : Config) (i : Index) : Index.legalDigit c i = digitLegal c i := rfl

theorem legalBcd_eq (v : Byte) : Byte.legalBcd v = bcdLegal v := rfl

/-- A digit a command accepts has a physical position of its own (10_state.md R32). -/
theorem permAt_of_digit {c : Config} (hc : c.legal = true) {i : Nat} (h1 : 1 ≤ i) (hd : i ≤ c.digits) :
    c.perm[i - 1]? = some (c.permAt i) := by
  have hl := ((Config.legal_iff c).mp hc).2.2.1
  rw [Config.permAt, List.getD_eq_getElem?_getD, List.getElem?_eq_getElem (by omega)]
  rfl

/-- The digit of a tick is one of 1..D (42_plane_transposer.md R176). -/
theorem tickDigit_le {c : Config} (hc : c.legal = true) (t : Byte) :
    1 ≤ tickDigit c t ∧ tickDigit c t ≤ c.digits := by
  have hd := ((Config.legal_iff c).mp hc).2.1
  have := Nat.mod_lt t.toNat hd
  unfold tickDigit
  omega

/-- In a legal block the pattern of a code is the table's (R32, R172). -/
theorem bcdPattern_of_legal {c : Config} (hc : c.legal = true) (code : BitVec 4) :
    bcdPattern c code = Config.bcdTable.getD code.toNat 0 := by
  rw [bcdPattern, ((Config.legal_iff c).mp hc).2.2.2.2.2.2.2.2.2.2.1]

end Sys2Proof.Machine
end

