-- ==== Sys2Proof/Laws/PerInstr.lean ====
section
/-! SUPPORT. Statements for all commands, one lemma for each constructor. `EncodingRow`: the word of a command selects
the row of the opcode map that bears its mnemonic (30_encoding.md R95). -/

namespace Sys2Proof.Laws

/-- The command's word selects a row of the map with the command's mnemonic (R95). -/
def EncodingRow.Statement (i : Instr) : Prop :=
  ∃ r ∈ opcodeMap, r.mnemonic = i.mnemonic ∧ r.selects (encode i) = true

theorem and_ones4 (x : BitVec 4) : x &&& 0xF#4 = x := by decide +revert

theorem and_ones2 (x : BitVec 2) : x &&& 0x3#2 = x := by decide +revert

/-- A word of a row with mask `FF00`: the opcode and a zero A field are fixed. -/
theorem selects_data (x y : BitVec 4) (d : Byte) : (x ++ y ++ d) &&& 0xFF00#16 = x ++ y ++ 0#8 := by
  rw [show (0xFF00#16) = ((0xF#4 ++ 0xF#4) ++ 0x00#8) from rfl, BitVec.and_append, BitVec.and_append]
  simp [and_ones4]

/-- A word of a row with mask `F000`: only the opcode is fixed. -/
theorem selects_opcode (x y : BitVec 4) (d : Byte) : (x ++ y ++ d) &&& 0xF000#16 = x ++ 0#4 ++ 0#8 := by
  rw [show (0xF000#16) = ((0xF#4 ++ 0x0#4) ++ 0x00#8) from rfl, BitVec.and_append, BitVec.and_append]
  simp [and_ones4]

/-- A word of the sample row, mask `FC00`. -/
theorem selects_sample (x : BitVec 4) (y : BitVec 2) (r : Sample) :
    (x ++ y ++ r) &&& 0xFC00#16 = x ++ y ++ 0#10 := by
  rw [show (0xFC00#16) = ((0xF#4 ++ 0x3#2) ++ 0#10) from rfl, BitVec.and_append, BitVec.and_append]
  simp [and_ones4, and_ones2]

/-- A word of a reserved row, mask `F000`. -/
theorem selects_rest (x : BitVec 4) (y : BitVec 12) : (x ++ y) &&& 0xF000#16 = x ++ 0#12 := by
  rw [show (0xF000#16) = (0xF#4 ++ 0x000#12) from rfl, BitVec.and_append]
  simp [and_ones4]

theorem EncodingRow.qAppend (d : Byte) : EncodingRow.Statement (.qAppend d) :=
  ⟨⟨"Q_APPEND", 0x0000, 0xFF00, [.p]⟩, by decide, rfl, by
    show (((0x0#4 ++ 0#4 ++ d) &&& 0xFF00#16) == 0x0000#16) = true
    rw [selects_data]
    decide⟩

theorem EncodingRow.qPop : EncodingRow.Statement .qPop :=
  ⟨⟨"Q_POP", 0x1000, 0xFFFF, [.m]⟩, by decide, rfl, by decide⟩

theorem EncodingRow.qIsEmpty : EncodingRow.Statement .qIsEmpty :=
  ⟨⟨"Q_IS_EMPTY", 0x2000, 0xFFFF, [.p, .m]⟩, by decide, rfl, by decide⟩

theorem EncodingRow.ckReset : EncodingRow.Statement .ckReset :=
  ⟨⟨"CK_RESET", 0x3000, 0xFFFF, [.m]⟩, by decide, rfl, by decide⟩

theorem EncodingRow.ckUpdate (d : Byte) : EncodingRow.Statement (.ckUpdate d) :=
  ⟨⟨"CK_UPDATE", 0x4000, 0xFF00, [.m]⟩, by decide, rfl, by
    show (((0x4#4 ++ 0#4 ++ d) &&& 0xFF00#16) == 0x4000#16) = true
    rw [selects_data]
    decide⟩

theorem EncodingRow.ckRead : EncodingRow.Statement .ckRead :=
  ⟨⟨"CK_READ", 0x5000, 0xFFFF, [.m]⟩, by decide, rfl, by decide⟩

theorem EncodingRow.tpSetDigit (i : Index) (m : Byte) : EncodingRow.Statement (.tpSetDigit i m) :=
  ⟨⟨"TP_SET_DIGIT", 0x6000, 0xF000, [.m]⟩, by decide, rfl, by
    show (((0x6#4 ++ i ++ m) &&& 0xF000#16) == 0x6000#16) = true
    rw [selects_opcode]
    decide⟩

theorem EncodingRow.tpSetDigitBcd (i : Index) (v : Byte) : EncodingRow.Statement (.tpSetDigitBcd i v) :=
  ⟨⟨"TP_SET_DIGIT_BCD", 0x7000, 0xF000, [.m]⟩, by decide, rfl, by
    show (((0x7#4 ++ i ++ v) &&& 0xF000#16) == 0x7000#16) = true
    rw [selects_opcode]
    decide⟩

theorem EncodingRow.tpClear : EncodingRow.Statement .tpClear :=
  ⟨⟨"TP_CLEAR", 0x8000, 0xFFFF, [.m]⟩, by decide, rfl, by decide⟩

theorem EncodingRow.tpFlush : EncodingRow.Statement .tpFlush :=
  ⟨⟨"TP_FLUSH", 0x9000, 0xFFFF, [.m]⟩, by decide, rfl, by decide⟩

theorem EncodingRow.tpInit : EncodingRow.Statement .tpInit :=
  ⟨⟨"TP_INIT", 0xA000, 0xFFFF, [.m]⟩, by decide, rfl, by decide⟩

theorem EncodingRow.tpShowNoSignal (t : Byte) : EncodingRow.Statement (.tpShowNoSignal t) :=
  ⟨⟨"TP_SHOW_NO_SIGNAL", 0xB000, 0xFF00, [.m]⟩, by decide, rfl, by
    show (((0xB#4 ++ 0#4 ++ t) &&& 0xFF00#16) == 0xB000#16) = true
    rw [selects_data]
    decide⟩

theorem EncodingRow.maSample (r : Sample) : EncodingRow.Statement (.maSample r) :=
  ⟨⟨"MA_SAMPLE", 0xC000, 0xFC00, [.s]⟩, by decide, rfl, by
    show (((0xC#4 ++ 0#2 ++ r) &&& 0xFC00#16) == 0xC000#16) = true
    rw [selects_sample]
    decide⟩

theorem EncodingRow.reservedD (rest : BitVec 12) : EncodingRow.Statement (.reservedD rest) :=
  ⟨⟨"RESERVED_0xD", 0xD000, 0xF000, [.p, .m, .s]⟩, by decide, rfl, by
    show (((0xD#4 ++ rest) &&& 0xF000#16) == 0xD000#16) = true
    rw [selects_rest]
    decide⟩

theorem EncodingRow.reservedE (rest : BitVec 12) : EncodingRow.Statement (.reservedE rest) :=
  ⟨⟨"RESERVED_0xE", 0xE000, 0xF000, [.p, .m, .s]⟩, by decide, rfl, by
    show (((0xE#4 ++ rest) &&& 0xF000#16) == 0xE000#16) = true
    rw [selects_rest]
    decide⟩

theorem EncodingRow.reservedF (rest : BitVec 12) : EncodingRow.Statement (.reservedF rest) :=
  ⟨⟨"RESERVED_0xF", 0xF000, 0xF000, [.p, .m, .s]⟩, by decide, rfl, by
    show (((0xF#4 ++ rest) &&& 0xF000#16) == 0xF000#16) = true
    rw [selects_rest]
    decide⟩

end Sys2Proof.Laws
end

