-- ==== Sys2Proof/Tests/Slice0.lean ====
section
/-! SUPPORT. Tests and witnesses. Expected values are those of spec/95_test_vectors.md (the vector is named at each
test) and words written bit by bit from 30_encoding.md R91 and R95. A witness theorem shows a state and operands that
meet all hypotheses of the obligation it names, for each clause of it. -/

namespace Sys2Proof.Tests

open Sys2Proof.Machine

/-! ### Helpers -/

/-- A part of the next state, `none` where there is none. -/
def seen {α : Type} (o : Host.Outcome State Fault Refusal) (f : State → α) : Option α :=
  match o with
  | .next t => some (f t)
  | .fault _ => none
  | .refused _ => none

/-- Reset, in direct mode. -/
def direct : State := { State.reset with cfg := { Config.testVectors with syncMode := .direct } }

/-- Reset with a port issuing. -/
def on (q : Port) : State := State.reset.setPort q

/-- Reset with a recorded fault: program P5 after step 2. -/
def faultedState : State := State.reset.latch 4 1 0x6700

/-- Gray mode after four appends and one sync step: table "producer view lag", step 6; no pop yet. -/
def fullQueue : State :=
  { State.reset with qmem := [(0, 0x01), (1, 0x02), (2, 0x03), (3, 0x04)], wptr := 4, wqSync := 0b110 }

/-- The same with one byte and the consumer's view of it: table "consumer view lag", step 5. -/
def oneByte : State := { State.reset with qmem := [(0, 0x24)], wptr := 1, wqSync := 0b001 }

/-- Three bytes in direct mode, on the way to wrap: vector Q5's queue before its pops of 77 and 88. -/
def threeBytes : State :=
  { direct with
    qmem := [(0, 0x66), (1, 0x77), (2, 0x88), (3, 0x44)], wptr := 7, rptr := 4, wqSync := 0b100, rqSync := 0b110 }

/-! ### Well-formedness: an ill-formed command for each check -/

theorem test_wellFormed_digit_zero : (Instr.tpSetDigit 0 0x3F).wellFormed Config.testVectors = false := by decide
theorem test_wellFormed_digit_seven : (Instr.tpSetDigit 7 0x00).wellFormed Config.testVectors = false := by decide
theorem test_wellFormed_bcd_index : (Instr.tpSetDigitBcd 7 0x05).wellFormed Config.testVectors = false := by decide
theorem test_wellFormed_bcd_value : (Instr.tpSetDigitBcd 1 0x10).wellFormed Config.testVectors = false := by decide
theorem test_wellFormed_reserved :
    (Instr.reservedD 0).wellFormed Config.testVectors = false ∧ (Instr.reservedE 0).wellFormed Config.testVectors = false ∧
      (Instr.reservedF 0).wellFormed Config.testVectors = false := by decide
theorem test_wellFormed_good :
    (Instr.tpSetDigit 6 0xFF).wellFormed Config.testVectors = true ∧ (Instr.tpSetDigitBcd 1 0x8F).wellFormed Config.testVectors = true := by decide

/-! ### Decoding: `OP` in bits 15:12, `A` in 11:8, `D` in 7:0; MA_SAMPLE `RSV` in 11:10, `SAMPLE` in 9:0 -/

theorem test_decode_qAppend : decodeTableWord 16 0b0000000010110101 = some (.qAppend 0xB5) := by decide
theorem test_decode_qPop : decodeTableWord 16 0b0001000000000000 = some .qPop := by decide
theorem test_decode_qIsEmpty : decodeTableWord 16 0b0010000000000000 = some .qIsEmpty := by decide
theorem test_decode_ckReset : decodeTableWord 16 0b0011000000000000 = some .ckReset := by decide
theorem test_decode_ckUpdate : decodeTableWord 16 0b0100000001000010 = some (.ckUpdate 0x42) := by decide
theorem test_decode_ckRead : decodeTableWord 16 0b0101000000000000 = some .ckRead := by decide
theorem test_decode_tpSetDigit : decodeTableWord 16 0b0110000100111111 = some (.tpSetDigit 1 0x3F) := by
  decide
theorem test_decode_tpSetDigitBcd :
    decodeTableWord 16 0b0111001110000011 = some (.tpSetDigitBcd 3 0x83) := by decide
theorem test_decode_tpClear : decodeTableWord 16 0b1000000000000000 = some .tpClear := by decide
theorem test_decode_tpFlush : decodeTableWord 16 0b1001000000000000 = some .tpFlush := by decide
theorem test_decode_tpInit : decodeTableWord 16 0b1010000000000000 = some .tpInit := by decide
theorem test_decode_tpShowNoSignal :
    decodeTableWord 16 0b1011000000000111 = some (.tpShowNoSignal 7) := by decide
theorem test_decode_maSample : decodeTableWord 16 0b1100001001011000 = some (.maSample 600) := by decide
theorem test_decode_reservedD : decodeTableWord 16 0b1101000000000000 = some (.reservedD 0) := by decide
theorem test_decode_reservedE : decodeTableWord 16 0b1110000100100011 = some (.reservedE 0x123) := by
  decide
theorem test_decode_reservedF : decodeTableWord 16 0b1111111111111111 = some (.reservedF 0xFFF) := by
  decide

/-- Words with a zero field that is not zero match no row (2.1, 2.2, 2.4 "Faults"). -/
theorem test_decode_rejects :
    decodeTableWord 16 0x0111 = none ∧ decodeTableWord 16 0x1001 = none ∧
      decodeTableWord 16 0x4142 = none ∧ decodeTableWord 16 0x5001 = none ∧
      decodeTableWord 16 0xC400 = none ∧ decodeTableWord 16 0xCFFF = none := by decide

/-- Words as program P3 and vectors S7, 2.3 and 2.4 print them. -/
theorem test_encode :
    encode (.tpSetDigitBcd 6 5) = 0x7605 ∧ encode (.tpSetDigit 6 0xFF) = 0x66FF ∧
      encode (.maSample 1023) = 0xC3FF ∧ encode .tpInit = 0xA000 ∧ encode (.qAppend 0x11) = 0x0011 := by
  decide

/-! ### The assembler and the pseudo-instructions -/

/-- Lines of programs P1 and P3. -/
theorem test_assemble :
    assembleLine "P: Q_APPEND #0xB5".toList = some (.p, 0x00B5) ∧
      assembleLine "M: TP_SET_DIGIT_BCD 1, #2".toList = some (.m, 0x7102) ∧
      assembleLine "S: MA_SAMPLE #600".toList = some (.s, 0xC258) ∧
      assembleLine "M: TP_FLUSH".toList = some (.m, 0x9000) ∧
      assembleLine "S: MA_SAMPLE #1024".toList = none := by decide

/-- Program P2 is `CK_FRAME 0x06, 0x24` with an empty payload. -/
theorem test_ckFrame :
    (ckFrame 0x06 0x24 []).map (List.map encode) =
      some [0x3000, 0x4006, 0x4024, 0x4000, 0x4000, 0x5000] := by decide

/-- S13: `TP_SHOW_HMS 22, 30, 45`. -/
theorem test_tpShowHms :
    (tpShowHms 22 30 45).map (List.map encode) =
      some [0x7102, 0x7202, 0x7303, 0x7400, 0x7504, 0x7605, 0x9000] := by decide

/-- S6: a frame with an empty payload. -/
theorem test_frameBytes :
    frameBytes 0x06 0x24 [] 0x2A 0x84 = [0xB5, 0x62, 0x06, 0x24, 0x00, 0x00, 0x2A, 0x84] := by decide

/-! ### One step of each command -/

/-- Q1, its first append. -/
theorem test_qAppend_direct :
    seen (exec (.qAppend 0x11) direct) (fun t => (t.qmem, t.wptr, t.wqSync)) =
      some ([(0, 0x11)], 1, 0b001) := by decide

/-- "Producer view lag", step 5: dropped, without a fault. -/
theorem test_qAppend_full :
    seen (exec (.qAppend 0x05) fullQueue) (fun t => (t.qmem, t.wptr, t.faultCause)) =
      some (fullQueue.qmem, 4, 0) := by decide

/-- "Consumer view lag", step 6: gray mode leaves `RQ_SYNC`. -/
theorem test_qPop_gray :
    seen (exec .qPop (oneByte.setPort .m)) (fun t => (t.respM, t.rptr, t.rqSync)) =
      some ([.byte 0x24], 1, 0b000) := by decide

/-- Q7: `RPTR` wraps from 7 to 0 and both views are 0. -/
theorem test_qPop_wraps :
    seen
      (exec .qPop
        { direct with
          qmem := [(3, 0xAA)], wptr := 0, rptr := 7, wqSync := 0b000, rqSync := 0b100, port := .m })
      (fun t => (t.respM, t.rptr, t.rqSync)) = some ([.byte 0xAA], 0, 0b000) := by decide

/-- "Consumer view lag", steps 2 and 3: after an append the consumer answers 1 and the producer 0. -/
theorem test_qIsEmpty :
    seen (exec .qIsEmpty { oneByte with wqSync := 0, port := .m }) (fun t => t.respM) = some [.bit 1] ∧
      seen (exec .qIsEmpty { oneByte with wqSync := 0, port := .p }) (fun t => t.respP) =
        some [.bit 0] := by decide

theorem test_ckReset :
    seen (exec .ckReset { on .m with ckA := 0x42, ckB := 0x42 }) (fun t => (t.ckA, t.ckB)) =
      some (0, 0) := by decide

/-- Row "FF 01": `CK_A` wraps to 0 and `CK_B` adds the wrapped 0. -/
theorem test_ckUpdate_wraps :
    seen (exec (.ckUpdate 0x01) { on .m with ckA := 0xFF, ckB := 0xFF }) (fun t => (t.ckA, t.ckB)) =
      some (0x00, 0xFF) := by decide

/-- S5: from (0x42, 0x42), 0x42 gives (0x84, 0xC6). -/
theorem test_ckUpdate :
    seen (exec (.ckUpdate 0x42) { on .m with ckA := 0x42, ckB := 0x42 }) (fun t => (t.ckA, t.ckB)) =
      some (0x84, 0xC6) := by decide

/-- P2, step 6. -/
theorem test_ckRead :
    seen (exec .ckRead { on .m with ckA := 0x2A, ckB := 0x84 }) (fun t => t.respM) =
      some [.word 0x842A] := by decide

/-- T1. -/
theorem test_tpSetDigit :
    seen (exec (.tpSetDigit 1 0x3F) (on .m)) (fun t => t.plane) =
      some #v[0x01, 0x01, 0x01, 0x01, 0x01, 0x01, 0x00, 0x00] := by decide

/-- T12: the digit's bits are cleared too. -/
theorem test_tpSetDigit_clears :
    seen
      (exec (.tpSetDigit 6 0x00)
        { on .m with plane := #v[0x20, 0x20, 0x20, 0x20, 0x20, 0x20, 0x20, 0x20] })
      (fun t => t.plane) = some #v[0, 0, 0, 0, 0, 0, 0, 0] := by decide

/-- T3. -/
theorem test_tpSetDigitBcd :
    seen (exec (.tpSetDigitBcd 3 0x83) (on .m)) (fun t => t.plane) =
      some #v[0x04, 0x04, 0x04, 0x04, 0x00, 0x00, 0x04, 0x04] := by decide

/-- T5: the segments of "8" that "1" lacks are cleared. -/
theorem test_tpSetDigitBcd_replaces :
    seen
      (exec (.tpSetDigitBcd 2 1)
        { on .m with plane := #v[0x02, 0x02, 0x02, 0x02, 0x02, 0x02, 0x02, 0x00] })
      (fun t => t.plane) = some #v[0x00, 0x02, 0x02, 0x00, 0x00, 0x00, 0x00, 0x00] := by decide

/-- The "pattern" columns of S7 and of the sentinel table. -/
theorem test_bcdPattern :
    (List.range 16).map (fun v => bcdPattern Config.testVectors (BitVec.ofNat 4 v)) =
      [0x3F, 0x06, 0x5B, 0x4F, 0x66, 0x6D, 0x7D, 0x07, 0x7F, 0x6F, 0x40, 0x79, 0x76, 0x38, 0x73,
        0x00] := by decide

/-- T13. -/
theorem test_tpClear :
    seen (exec .tpClear { on .m with plane := #v[1, 2, 3, 4, 5, 6, 7, 8] }) (fun t => (t.plane, t.out)) =
      some (#v[0, 0, 0, 0, 0, 0, 0, 0], []) := by decide

/-- T2. -/
theorem test_tpFlush :
    seen (exec .tpFlush { on .m with plane := #v[1, 1, 1, 1, 1, 1, 0, 0] }) (fun t => t.out) =
      some [.pair .flush 1 1, .pair .flush 2 1, .pair .flush 3 1, .pair .flush 4 1, .pair .flush 5 1,
        .pair .flush 6 1, .pair .flush 7 0, .pair .flush 8 0] := by
  decide

/-- T14. -/
theorem test_tpInit :
    seen (exec .tpInit (on .m)) (fun t => t.out) =
      some [.pair .init 0x09 0x00, .pair .init 0x0B 0x07, .pair .init 0x0F 0x00, .pair .init 0x0C 0x01] := by decide

/-- The no-signal table, t = 255 (digit 4), from the planes of T8. -/
theorem test_tpShowNoSignal :
    seen
      (exec (.tpShowNoSignal 255)
        { on .m with plane := #v[0x2F, 0x1F, 0x3C, 0x2F, 0x0B, 0x38, 0x37, 0x00] })
      (fun t => t.plane) = some #v[0, 0, 0, 0, 0, 0, 0, 0x08] := by decide

/-- P4, schedule A, step 2. -/
theorem test_maSample :
    seen (exec (.maSample 600) (on .s)) (fun t => (t.sum, t.widx, t.out)) =
      some (600, 1, [.pair .sample 0x0A 0x00]) := by decide

/-- Row "1023 ×17": the 17th sample evicts an equal one, `SUM` unchanged, intensity 15. -/
theorem test_maSample_evicts :
    seen (exec (.maSample 1023) { on .s with win := List.replicate 16 1023, sum := 16368 })
      (fun t => (t.sum, t.widx, t.out)) = some (16368, 1, [.pair .sample 0x0A 0x0F]) := by decide

/-- 2.5: 0xD000 on port P. -/
theorem test_reservedD :
    seen (exec (.reservedD 0) (on .p)) (fun t => (t.faultCause, t.faultPort, t.faultWord)) =
      some (1, 0, 0xD000) := by decide

theorem test_reservedE :
    seen (exec (.reservedE 0x123) (on .m)) (fun t => (t.faultCause, t.faultPort, t.faultWord)) =
      some (1, 1, 0xE123) := by decide

theorem test_reservedF :
    seen (exec (.reservedF 0xFFF) (on .s)) (fun t => (t.faultCause, t.faultPort, t.faultWord)) =
      some (1, 2, 0xFFFF) := by decide

/-! ### Words, faults and agents -/

/-- 2.1 "Faults". -/
theorem test_wrongPort :
    seen (runWord 0x0011 (on .m)) (fun t => (t.faultCause, t.faultPort, t.faultWord)) =
        some (2, 1, 0x0011) ∧
      seen (runWord 0x2000 (on .s)) (fun t => (t.faultCause, t.faultPort, t.faultWord)) =
        some (2, 2, 0x2000) := by decide

/-- 2.1 and 2.4 "Faults". -/
theorem test_reservedField :
    seen (runWord 0x0111 (on .p)) (fun t => (t.faultCause, t.faultPort, t.faultWord)) =
        some (3, 0, 0x0111) ∧
      seen (runWord 0xC400 (on .s)) (fun t => (t.faultCause, t.faultPort, t.faultWord)) =
        some (3, 2, 0xC400) := by decide

/-- P5, step 2: the stream does not move. -/
theorem test_badDigitIndex :
    seen (agentStep (.port .m) { State.reset with streamM := .finite [0x6700, 0x9000] })
      (fun t => (t.faultCause, t.faultPort, t.faultWord, t.streamM)) =
      some (4, 1, 0x6700, .finite [0x6700, 0x9000]) := by decide

/-- R171's order: the index is checked before the value. -/
theorem test_badBcdValue :
    seen (runWord 0x7110 (on .m)) (fun t => t.faultCause) = some 5 ∧
      seen (runWord 0x7710 (on .m)) (fun t => t.faultCause) = some 4 := by decide

/-- 2.5, row 2: after the fault, `MA_SAMPLE` never runs. -/
theorem test_faulted_holds :
    seen (agentStep (.port .s) { faultedState with streamS := .finite [0xC3FF] }) (fun t => (t.sum, t.out)) =
      some (0, []) := by decide

/-- P1, step 4. -/
theorem test_syncW :
    seen (agentStep .syncW { State.reset with wptr := 2 }) (fun t => t.wqSync) = some 0b011 := by decide

/-- 2.5, last row: reset clears the latch and leaves the stream. -/
theorem test_reset :
    seen (agentStep .reset { faultedState with streamM := .finite [0x6700] })
      (fun t => (t.faultCause, t.faultPort, t.faultWord, t.streamM)) = some (0, 0, 0, .finite [0x6700]) := by
  decide

/-- T1 through the fetch: the first step after reset runs the word placed. -/
theorem test_withFetchWord :
    seen (step (State.reset.withFetchWord 16 0x613F)) (fun t => (t.plane, t.streamM)) =
      some (#v[0x01, 0x01, 0x01, 0x01, 0x01, 0x01, 0x00, 0x00], .finite []) := by decide

/-- R24: an infinite stream has a head and, past it, a next one. -/
theorem test_endless_stream :
    (CommandStream.mk [] (some ⟨3, 7⟩)).head = some (Config.hostWord 3 7) ∧
      (CommandStream.mk [] (some ⟨3, 7⟩)).tail.head = some (Config.hostWord 3 8) := ⟨rfl, rfl⟩

/-- R254 with the intensity register at a plane's address: a `TP_INIT` and a `MA_SAMPLE` make no plane known. -/
theorem test_display_unknown :
    shownPlane [.pair .init 0x0C 0x01, .pair .sample 0x01 0x0F] 0 = none ∧
      shownPlane (flushPairs (planesOf fun _ => 0x2F) |>.map fun x => .pair .flush x.1 x.2) 0 = none := by decide

/-- P3: after its steps 1 and 9 the display shows the planes sent. -/
theorem test_display_shown :
    shownPlane [.pair .init 0x09 0x00, .pair .init 0x0B 0x07, .pair .init 0x0F 0x00, .pair .init 0x0C 0x01,
      .pair .flush 1 0x2F, .pair .flush 2 0x1F, .pair .flush 3 0x3C, .pair .flush 4 0x2F, .pair .flush 5 0x0B,
      .pair .flush 6 0x38, .pair .flush 7 0x37, .pair .flush 8 0x00] 2 = some 0x3C := by decide

/-- T7: `PERM(i) = 8 - i`, `TP_SET_DIGIT_BCD 1, #0x88` lights bit 7 of every plane. -/
theorem test_permutation :
    seen
      (exec (.tpSetDigitBcd 1 0x88)
        { on .m with cfg := { Config.testVectors with perm := [7, 6, 5, 4, 3, 2] } })
      (fun t => t.plane) = some #v[0x80, 0x80, 0x80, 0x80, 0x80, 0x80, 0x80, 0x80] := by decide

/-- The Gray codes of 0..7 as 2.1 lists them, and back. -/
theorem test_gray :
    (List.range 8).map gray = [0b000, 0b001, 0b011, 0b010, 0b110, 0b111, 0b101, 0b100] ∧
      ([0b000, 0b001, 0b011, 0b010, 0b110, 0b111, 0b101, 0b100].map (bin 3)) = List.range 8 := by decide

/-- R69: address byte first, each byte most significant bit first, for the pair (01, 2F) of S13. -/
theorem test_wireBits :
    wireBits 0x01 0x2F =
      [false, false, false, false, false, false, false, true,
        false, false, true, false, true, true, true, true] := by decide

/-! ### Witnesses: states that meet the hypotheses of the obligations -/

theorem running_reset : State.reset.Running := ⟨by decide, by decide⟩
theorem running_on (q : Port) : (on q).Running := running_reset
theorem running_direct : direct.Running := ⟨by decide, by decide⟩
theorem running_fullQueue : fullQueue.Running := ⟨by decide, by decide⟩
theorem running_oneByte : oneByte.Running := ⟨by decide, by decide⟩

theorem inv_of {s : State} (hq : s.QueueInv) (hw : s.win = List.replicate s.cfg.w 0) (hs : s.sum = 0)
    (hi : s.widx < s.cfg.w) (hp : s.plane = zeroPlanes) (hc : s.faultCause = 0) (hf : s.faultPort = 0)
    (hd : s.faultWord = 0) : s.Inv where
  queue := hq
  window := ⟨by simp [hw], hi, by simp [hw, hs]⟩
  planes := fun k _ _ => by rw [hp, getElem_zeroPlanes]; simp
  fault := ⟨by simp [hc], by simp [hf], fun _ => ⟨hf, hd⟩⟩

theorem queueInv_reset : State.reset.QueueInv := by
  constructor <;> decide
theorem queueInv_fullQueue : fullQueue.QueueInv := by
  constructor <;> decide
theorem queueInv_oneByte : oneByte.QueueInv := by
  constructor <;> decide
theorem queueInv_threeBytes : threeBytes.QueueInv := by
  constructor <;> decide

theorem inv_reset : State.reset.Inv :=
  inv_of queueInv_reset rfl rfl (by decide) rfl rfl rfl rfl
theorem inv_fullQueue : fullQueue.Inv :=
  inv_of queueInv_fullQueue rfl rfl (by decide) rfl rfl rfl rfl
theorem inv_oneByte : oneByte.Inv :=
  inv_of queueInv_oneByte rfl rfl (by decide) rfl rfl rfl rfl
theorem inv_threeBytes : threeBytes.Inv :=
  inv_of queueInv_threeBytes rfl rfl (by decide) rfl rfl rfl rfl

theorem legal_direct : direct.cfg.legal = true := by decide

/-! Encoding and faults. -/

theorem witness_DecoderFollowsOpcodeMap :
    decode 0x0024 = .ok (.qAppend 0x24) ∧ (∀ r ∈ opcodeMap, r.selects 0x0111 = false) ∧
      (∃ r ∈ opcodeMap, r.selects 0xFFFF = true) := ⟨rfl, by decide, by decide⟩

theorem witness_ReservedOpcodesFault :
    (on .p).Running ∧ fieldOp 0xD000 = 0xD ∧ fieldOp 0xEFFF = 0xE ∧ fieldOp 0xFFFF = 0xF :=
  ⟨running_on _, by decide, by decide, by decide⟩

/-- The lowest and the highest legal opcode, each on a port not its own. -/
theorem witness_WrongPortFaults :
    ∀ x ∈ [((0x0011 : Word), Port.m), (0xC3FF, .p)], (on x.2).Running ∧ (fieldOp x.1).toNat < 0xD ∧
      ∀ r ∈ opcodeMap, fieldOp r.pattern = fieldOp x.1 → (on x.2).port ∉ r.ports :=
  fun x hx => ⟨running_on _, by revert x; decide⟩

theorem witness_ReservedFieldFaults :
    ∀ x ∈ [((0x0111 : Word), Port.p), (0x1001, .m), (0xC400, .s)], (on x.2).Running ∧
      (fieldOp x.1).toNat < 0xD ∧ ∃ r ∈ opcodeMap, fieldOp r.pattern = fieldOp x.1 ∧
        (on x.2).port ∈ r.ports ∧ r.selects x.1 = false :=
  fun x hx => ⟨running_on _, by revert x; decide⟩

/-- Each case of the match: every cause as the first, and none with a next state. -/
theorem witness_FirstCauseIsRecorded :
    (on .m).Running ∧ causesOf Config.testVectors 0xD000 .m = [.illegalOpcode] ∧
      causesOf Config.testVectors 0x7010 .p = [.wrongPort, .badDigitIndex, .badBcdValue] ∧
      causesOf Config.testVectors 0x1001 .m = [.reservedField] ∧ causesOf Config.testVectors 0x7710 .m = [.badDigitIndex, .badBcdValue] ∧
      causesOf Config.testVectors 0x7110 .m = [.badBcdValue] ∧ causesOf Config.testVectors 0x8000 .m = [] ∧
      ∃ t, runWord 0x8000 (on .m) = .next t :=
  ⟨running_on _, by decide, by decide, by decide, by decide, by decide, by decide, _, rfl⟩

theorem witness_WellFormedCommandsDoNotFault :
    (on .m).Running ∧ (on .m).port ∈ opcodePorts (fieldOp (encode (.tpSetDigit 6 0))) ∧
      (Instr.tpSetDigit 6 0).wellFormed Config.testVectors = true ∧ (Instr.tpSetDigit 7 0).wellFormed Config.testVectors = false ∧
      ∃ t, exec (.tpSetDigit 6 0) (on .m) = .next t :=
  ⟨running_on _, by decide, by decide, by decide, _, rfl⟩

theorem witness_FaultEntryWritesOnlyTheLatch :
    ∃ t, agentStep (.port .m) { State.reset with streamM := .finite [0x6700] } = .next t ∧
      State.reset.faultCause = 0 ∧ t.faultCause ≠ 0 := ⟨_, rfl, rfl, by decide⟩

theorem witness_FaultedBlockOnlyResets :
    faultedState.cfg.legal = true ∧ faultedState.faultCause ≠ 0 ∧ Agent.port .p ≠ .reset :=
  ⟨by decide, by decide, by decide⟩

/-! Reset, parameters and steps. -/

theorem witness_ResetStepSetsEveryElement : threeBytes.cfg.legal = true := legal_direct

theorem witness_StateAfterResetStep : ∃ t, agentStep .reset threeBytes = .next t := ⟨_, rfl⟩

theorem witness_ResetEstablishesInvariant :
    Config.testVectors.legal = true ∧ direct.cfg.legal = true := ⟨by decide, by decide⟩

theorem witness_StepKeepsInvariant :
    ({ fullQueue with schedule := [.port .m], streamM := .finite [0x1000] } : State).Inv ∧
      ∃ t, step { fullQueue with schedule := [.port .m], streamM := .finite [0x1000] } = .next t :=
  ⟨inv_of (by constructor <;> decide) rfl rfl (by decide) rfl rfl rfl rfl, _, rfl⟩

/-- The pop of a slot without a value, and a state of the invariant. -/
theorem witness_OnlyUnwrittenSlotsStop :
    ({ on .m with wqSync := 1 } : State).Running ∧ ({ on .m with wqSync := 1 } : State).port = .m ∧
      (on .m).rptr ≠ bin 3 1 ∧ memRead (on .m).qmem 0 = none ∧ State.reset.Inv :=
  ⟨⟨by decide, by decide⟩, rfl, by decide, rfl, inv_reset⟩

/-- One parameter set for each condition of R6 that it breaks alone. -/
theorem witness_IllegalParametersRefused :
    ∀ c ∈ [{ Config.testVectors with qaw := 0 }, { Config.testVectors with perm := [0, 1, 2, 3, 4] },
        { Config.testVectors with perm := [0, 1, 2, 3, 4, 4] }, { Config.testVectors with idiv := 63 },
        { Config.testVectors with sumw := 13 }, { Config.testVectors with sw := 11 }],
      ¬ (1 ≤ c.qaw ∧ c.perm.length = c.digits ∧ c.perm.Nodup ∧ (2 ^ c.sw - 1) / c.idiv ≤ 15 ∧
        c.sw + Nat.log2 c.w ≤ c.sumw) := by decide

theorem witness_IllegalParametersRefused_window : ¬ ∃ k, 15 = 2 ^ k := by
  rintro ⟨k, hk⟩
  have : k < 4 := (Nat.pow_lt_pow_iff_right (by decide : 1 < 2)).mp (by omega)
  interval_cases k <;> omega

theorem witness_LegalParametersAccepted :
    ∀ c ∈ [Config.testVectors,
        { Config.testVectors with digits := 8, perm := [7, 6, 5, 4, 3, 2, 1, 0], sw := 12, idiv := 256, sumw := 16 }],
      1 ≤ c.qaw ∧ 1 ≤ c.digits ∧ c.perm.length = c.digits ∧ c.perm.Nodup ∧ c.w = 2 ^ 4 ∧ 1 ≤ c.idiv ∧
        (2 ^ c.sw - 1) / c.idiv ≤ 15 ∧ c.sw + Nat.log2 c.w ≤ c.sumw ∧ c.qdw = 8 ∧ c.nplanes = 8 ∧
        c.bcd = Config.bcdTable ∧ 10 ≤ c.sw := by decide

theorem witness_ParametersNeverChange :
    ∃ t, step { State.reset with schedule := [.reset] } = .next t := ⟨_, rfl⟩

theorem witness_StepRunsDecodedCommand :
    ({ State.reset with schedule := [.port .m], streamM := .finite [0x613F] } : State).Running ∧
      ({ State.reset with schedule := [.port .m], streamM := .finite [0x613F] } : State).turn = .port .m ∧
      (CommandStream.finite [0x613F]).head = some 0x613F ∧
      decode 0x613F = .ok (.tpSetDigit 1 0x3F) := ⟨running_reset, rfl, rfl, rfl⟩

/-- A schedule that names an idle port, a schedule used up, and an agent that is no reset. -/
theorem witness_StepFollowsSchedule :
    ({ State.reset with schedule := [.port .s] } : State).Running ∧
      (State.reset.stream .s).head = none ∧ State.reset.schedule = [] ∧
      (∃ a rest, Config.freeTurns State.reset.round ++ [fairAgent State.reset.round] = a :: rest) ∧
      (∃ t, Host.Core.run core 1 ({ State.reset with schedule := [.syncW] } : State) = .next t) ∧
      Agent.syncR ≠ .reset := by
  refine ⟨running_reset, rfl, rfl, ?_, ⟨_, rfl⟩, by decide⟩
  cases Config.freeTurns State.reset.round with
  | nil => exact ⟨_, _, rfl⟩
  | cons a rest => exact ⟨_, _, rfl⟩

/-- A step that moves a stream, one that does not, and one past a fault. -/
theorem witness_StreamsAdvanceInOrder :
    (∃ t, agentStep (.port .p) { State.reset with streamP := .finite [0x0011] } = .next t ∧
        t.streamP = .finite []) ∧
      (∃ t, agentStep (.port .m) { State.reset with streamM := .finite [0x1000] } = .next t ∧
        t.streamM = .finite [0x1000]) :=
  ⟨⟨_, rfl, by decide⟩, _, rfl, by decide⟩

/-- For each clause a step that meets its premise. -/
theorem witness_AgentsWriteOnlyTheirOwn :
    (∃ t, agentStep (.port .p) { direct with streamP := .finite [0x0011] } = .next t ∧ t.wptr ≠ direct.wptr ∧
      t.wqSync ≠ direct.wqSync) ∧
    (∃ t, agentStep (.port .m) { threeBytes with streamM := .finite [0x1000] } = .next t ∧
      t.rptr ≠ threeBytes.rptr ∧ t.rqSync ≠ threeBytes.rqSync) ∧
    (∃ t, agentStep (.port .s) { State.reset with streamS := .finite [0xC258] } = .next t ∧
      t.sum ≠ State.reset.sum ∧ t.out ≠ State.reset.out) ∧
    (∃ t, agentStep .syncW { State.reset with wptr := 2 } = .next t ∧ t.wqSync ≠ State.reset.wqSync) ∧
    (∃ t, agentStep .syncR { fullQueue with rptr := 1 } = .next t ∧ t.rqSync ≠ fullQueue.rqSync) ∧
    (∃ t, agentStep (.port .m) { State.reset with streamM := .finite [0x6700] } = .next t ∧
      t.faultWord ≠ State.reset.faultWord) :=
  ⟨⟨_, rfl, by decide, by decide⟩, ⟨_, rfl, by decide, by decide⟩, ⟨_, rfl, by decide, by decide⟩,
    ⟨_, rfl, by decide⟩, ⟨_, rfl, by decide⟩, _, rfl, by decide⟩

theorem witness_HistoryIsNeverRead :
    ∃ t, agentStep (.port .m)
      { State.reset with streamM := .finite [0x9000], out := [.resetMark], respM := [.bit 1] } = .next t :=
  ⟨_, rfl⟩

/-- A step for each clause. -/
theorem witness_BurstsAreWhole :
    ∀ x ∈ [(Agent.syncW, (0x1000 : Word), 0), (.port .s, 0xC258, 1), (.port .m, 0x9000, 8), (.port .m, 0xA000, 4),
        (.reset, 0x1000, 1)],
      seen (agentStep x.1 { State.reset with streamM := .finite [x.2.1], streamS := .finite [x.2.1] })
        (fun t => t.out.length) = some x.2.2 := by decide

/-! QUEUE. -/

/-- Room and no room, in both modes. -/
theorem witness_QAppendStoresOrDrops :
    (on .p).Running ∧ (on .p).port = .p ∧ (0 + (8 - bin 3 0)) % 8 ≠ 4 ∧ fullQueue.Running ∧
      fullQueue.port = .p ∧ (fullQueue.wptr + (8 - bin 3 fullQueue.rqSync)) % 8 = 4 :=
  ⟨running_on _, rfl, by decide, running_fullQueue, rfl, by decide⟩

theorem witness_QPopRespondsOrHolds :
    (on .m).Running ∧ (on .m).rptr = bin 3 (on .m).wqSync ∧ (oneByte.setPort .m).Running ∧
      oneByte.rptr ≠ bin 3 oneByte.wqSync ∧ memRead oneByte.qmem (oneByte.rptr % 4) = some 0x24 :=
  ⟨running_on _, by decide, running_oneByte, by decide, by decide⟩

theorem witness_QIsEmptyAnswersFromOwnView :
    (on .p).Running ∧ (on .p).port = .p ∧ (on .m).Running ∧ (on .m).port = .m :=
  ⟨running_on _, rfl, running_on _, rfl⟩

/-- The two exceptions of each command: a word on a port not its own, and a word with a bit in a zero field. -/
theorem witness_CommandExceptions :
    ∀ x ∈ [((0x0011 : Word), Port.m, (0x0111 : Word), Port.p, (0x0F00 : Word)),
        (0x1000, .p, 0x1001, .m, 0x0FFF), (0x2000, .s, 0x2001, .m, 0x0FFF), (0x3000, .s, 0x3800, .m, 0x0FFF),
        (0x4042, .p, 0x4142, .m, 0x0F00), (0x5000, .p, 0x5001, .m, 0x0FFF), (0x8000, .p, 0x8001, .m, 0x0FFF),
        (0x9000, .s, 0x9001, .m, 0x0FFF), (0xA000, .p, 0xA100, .m, 0x0FFF), (0xB000, .s, 0xB100, .m, 0x0F00),
        (0xC3FF, .m, 0xC400, .s, 0x0C00)],
      (on x.2.1).Running ∧ x.2.1 ∉ opcodePorts (fieldOp x.1) ∧ (on x.2.2.2.1).Running ∧
        fieldOp x.2.2.1 = fieldOp x.1 ∧ x.2.2.2.1 ∈ opcodePorts (fieldOp x.2.2.1) ∧
        x.2.2.1 &&& x.2.2.2.2 ≠ 0 :=
  fun x hx => ⟨running_on _, by revert x; decide, running_on _, by revert x; decide⟩

/-- The two digit commands on a port not their own. -/
theorem witness_PortException :
    (on .p).Running ∧ fieldOp 0x613F = 0x6 ∧ fieldOp 0x7108 = 0x7 ∧ (on .p).port ∉ [Port.m] :=
  ⟨running_on _, by decide, by decide, by decide⟩

theorem witness_SyncAgentsCopyPointers :
    State.reset.Running ∧ State.reset.cfg.syncMode = .gray ∧ direct.Running ∧
      direct.cfg.syncMode = .direct := ⟨running_reset, rfl, running_direct, rfl⟩

/-- The lowest and the highest code of two bits. -/
theorem witness_GrayCodeLaws : 0 < 2 ^ (1 + 1) ∧ 3 < 2 ^ (1 + 1) ∧ 0 < 1 := by decide

theorem witness_GrayDomainTestsAgree :
    1 ≤ fullQueue.cfg.qaw ∧ fullQueue.wptr < fullQueue.cfg.ringSize ∧
      fullQueue.rptr < fullQueue.cfg.ringSize ∧ fullQueue.wqSync < fullQueue.cfg.ringSize ∧
      fullQueue.rqSync < fullQueue.cfg.ringSize ∧ fullQueue.producerFull = true ∧
      State.reset.consumerEmpty = true := by decide

/-- A run in which a byte is accepted and one is popped. -/
theorem witness_RunsKeepFifoOrder :
    threeBytes.Inv ∧ (∀ a ∈ [Agent.port .p, .port .m], a ≠ Agent.reset) ∧
      (∃ t, runAgents [.port .p, .port .m] { threeBytes with streamP := .finite [0x00AA], streamM := .finite [0x1000] } =
        .next t) ∧
      ({ threeBytes with streamP := .finite [0x00AA], streamM := .finite [0x1000] } : State).Inv :=
  ⟨inv_threeBytes, by decide, ⟨_, rfl⟩,
    inv_of (by constructor <;> decide) rfl rfl (by decide) rfl rfl rfl rfl⟩

/-- An append that stores, with unread bytes in the queue. -/
theorem witness_OverwriteGuard :
    threeBytes.Inv ∧ (∃ t, exec (.qAppend 0xAA) threeBytes = .next t ∧ t.wptr ≠ threeBytes.wptr) ∧
      2 < threeBytes.occupancy := ⟨inv_threeBytes, ⟨_, rfl, by decide⟩, by decide⟩

/-- States for the premises of each clause: not full, not empty, empty to the producer, direct mode. -/
theorem witness_ViewsAreStaleOneWay :
    oneByte.Inv ∧ oneByte.producerFull = false ∧ oneByte.consumerEmpty = false ∧
      oneByte.emptyOn .m = false ∧ State.reset.Inv ∧ State.reset.emptyOn .p = true ∧ threeBytes.Inv ∧
      threeBytes.cfg.syncMode = .direct :=
  ⟨inv_oneByte, by decide, by decide, by decide, inv_reset, by decide, inv_threeBytes, rfl⟩

theorem witness_ViewsHoldEarlierPointers :
    Config.testVectors.legal = true ∧ (∀ a ∈ [Agent.port .p, .syncW], a ≠ Agent.reset) ∧
      ∃ t, runAgents [.port .p, .syncW]
        ((State.resetWith Config.testVectors).load ⟨.finite [0x0011], .finite [], .finite [], []⟩) = .next t :=
  ⟨by decide, by decide, _, rfl⟩

theorem witness_VisibleByteIsPoppedNext :
    ({ oneByte with streamM := .finite [0x1000] } : State).Running ∧
      ({ oneByte with streamM := .finite [0x1000] } : State).Inv ∧ oneByte.consumerOccupancy ≠ 0 :=
  ⟨running_oneByte, inv_of (by constructor <;> decide) rfl rfl (by decide) rfl rfl rfl rfl, by decide⟩

/-- The pop held on an empty queue while other agents step and nothing is accepted. -/
theorem witness_VisibleByteIsPoppedNext_empty :
    ({ State.reset with streamM := .finite [0x1000] } : State).Inv ∧ State.reset.occupancy = 0 ∧
      acceptedOver [.port .p, .syncW, .port .m] { State.reset with streamM := .finite [0x1000] } = [] ∧
      ∃ t, runAgents [.port .p, .syncW, .port .m] { State.reset with streamM := .finite [0x1000] } = .next t :=
  ⟨inv_of (by constructor <;> decide) rfl rfl (by decide) rfl rfl rfl rfl, by decide, by decide, _, rfl⟩

/-- The five agents in turn: the fair turns of the model. -/
theorem fair_turns : FairForPop fairAgent :=
  WeaklyFair.forPop (fun _ h n => fairAgent_visits h n) (fun n => by unfold fairAgent; split <;> decide)

theorem witness_FairScheduleCompletesPop :
    FairForPop fairAgent ∧
      ({ fullQueue with wqSync := 0, streamM := .finite [0x1000] } : State).Running ∧
      ({ fullQueue with wqSync := 0, streamM := .finite [0x1000] } : State).Inv ∧
      fullQueue.cfg.syncMode = .gray ∧ fullQueue.occupancy ≠ 0 :=
  ⟨fair_turns, running_fullQueue,
    inv_of (by constructor <;> decide) rfl rfl (by decide) rfl rfl rfl rfl, rfl, by decide⟩

/-! CKSUM, TPOSE and MAVG: a running state on the command's port, and each operand's boundary values. -/

theorem witness_PortMCommands : (on .m).Running ∧ (on .m).port = .m := ⟨running_on _, rfl⟩

theorem witness_ChecksumIsTheFold : State.reset.Running := running_reset

/-- The empty payload, a payload of two bytes, and the longest that R104 admits. -/
theorem witness_CkFrameRespondsFrameChecksum :
    State.reset.Running ∧ (ckFrame 0x06 0x24 []).isSome = true ∧
      (ckFrame 0x06 0x24 [0xFF, 0x01]).isSome = true ∧
      ∀ b, (ckFrame 0x06 0x24 (List.replicate 65535 b)).isSome = true :=
  ⟨running_reset, by decide, by decide, fun _ => by rw [ckFrame, if_pos List.length_replicate.le]; rfl⟩

theorem witness_TpSetDigitWritesColumn :
    (on .m).Running ∧ (on .m).port = .m ∧ (1 ≤ (1 : Index).toNat ∧ (1 : Index).toNat ≤ (on .m).cfg.digits) ∧
      (1 ≤ (6 : Index).toNat ∧ (6 : Index).toNat ≤ (on .m).cfg.digits) ∧ (0 : Index).toNat = 0 ∧
      (on .m).cfg.digits < (7 : Index).toNat ∧ (on .m).cfg.digits < (15 : Index).toNat :=
  ⟨running_on _, rfl, by decide, by decide, by decide, by decide, by decide⟩

/-- The index clauses are met as above; the value clauses at 0x00, 0x0F, 0x8F and at 0x10, 0x40, 0xFF. -/
theorem witness_TpSetDigitBcdWritesPattern :
    (on .m).Running ∧ (on .m).port = .m ∧
      (∀ v ∈ [0x00, 0x0F, 0x8F], (v : Byte).extractLsb' 4 3 = 0) ∧
      (∀ v ∈ [0x10, 0x40, 0xFF], (v : Byte).extractLsb' 4 3 ≠ 0) :=
  ⟨running_on _, rfl, by decide, by decide⟩

theorem witness_PlanesHoldTheTranspose :
    (on .m).Running ∧
      (∃ t, exec (.tpSetDigit 6 0xFF) (on .m) = .next t ∧ t.faultCause = 0) ∧
      (∃ t, exec (.tpSetDigitBcd 1 0x8F) (on .m) = .next t ∧ t.faultCause = 0) ∧ bcdMask Config.testVectors 0x8F = 0x80 :=
  ⟨running_on _, ⟨_, rfl, rfl⟩, ⟨_, rfl, rfl⟩, by decide⟩

theorem witness_ShowHmsShowsDigits :
    State.reset.Running ∧ 6 ≤ State.reset.cfg.digits ∧ (tpShowHms 0 0 0).isSome = true ∧
      (tpShowHms 99 99 99).isSome = true := ⟨running_reset, by decide, by decide, by decide⟩

theorem witness_DisplayKnownAfterInitAndFlush :
    (on .m).Running ∧ (on .m).port = .m ∧
      (∃ t u, exec .tpInit (on .m) = .next t ∧ exec .tpFlush t = .next u) ∧
      (∃ t, agentStep .reset (on .m) = .next t) := ⟨running_on _, rfl, ⟨_, _, rfl, rfl⟩, _, rfl⟩

/-- The steps that move the start-up, each past its own stage. -/
theorem witness_DisplayKnown_steps :
    seen (agentStep (.port .m) { State.reset with streamM := .finite [0xA000] }) (fun t => startUp t.out) =
        some .initialised ∧
      startUp State.reset.out = .unknown ∧
      seen (agentStep (.port .m)
        { State.reset with streamM := .finite [0x9000], out := [.pair .init 0x0C 0x01] })
        (fun t => startUp t.out) = some .shown := by decide

theorem windowInv_reset : State.reset.WindowInv := inv_reset.window

theorem witness_MaSampleIntegrates :
    (on .s).Running ∧ (on .s).port = .s ∧ (on .s).WindowInv :=
  ⟨running_on _, rfl, windowInv_reset.length_eq, windowInv_reset.widx_lt, windowInv_reset.sum_eq⟩

/-- A window full of the largest sample. -/
theorem witness_MaSampleIntegrates_full :
    ({ on .s with win := List.replicate 16 1023, sum := 16368, widx := 15 } : State).WindowInv := by
  constructor <;> decide

theorem witness_WindowHoldsLastSamples :
    State.reset.Running ∧ State.reset.WindowInv ∧ State.reset.cfg.w ≤ (List.replicate 16 (64 : Sample)).length :=
  ⟨running_reset, windowInv_reset, by decide⟩

theorem witness_WarmUpCountsZeros :
    Config.testVectors.legal = true ∧ (List.replicate 15 (1 : Sample)).length < Config.testVectors.w ∧
      ([] : List Sample).length < Config.testVectors.w := by decide

/-- S14's lowest and highest averages of steps 0, 7 and 15. -/
theorem witness_IntensityHasSixteenSteps :
    ∀ x ∈ [(0, 0), (0, 63), (7, 511), (15, 960), (15, 1023)],
      Config.testVectors.w = 16 ∧ Config.testVectors.idiv = 64 ∧ x.1 ≤ 15 ∧
        64 * x.1 ≤ average Config.testVectors (16 * x.2) ∧
        average Config.testVectors (16 * x.2) ≤ 64 * x.1 + 63 := by decide

/-! Frames: each command completes in some state (so that its frame says something), and its other clauses' premises. -/

theorem witness_Frames :
    (∃ t, exec (.qAppend 0x05) fullQueue = .next t ∧ fullQueue.producerFull = true) ∧
      (∃ t, exec (.qAppend 0x11) State.reset = .next t ∧ State.reset.cfg.syncMode = .gray) ∧
      (∃ t, exec .qPop (oneByte.setPort .m) = .next t) ∧ (∃ t, exec .qIsEmpty (on .p) = .next t) ∧
      (∃ t, exec .ckReset (on .m) = .next t) ∧ (∃ t, exec (.ckUpdate 1) (on .m) = .next t) ∧
      (∃ t, exec .ckRead (on .m) = .next t) :=
  ⟨⟨_, rfl, by decide⟩, ⟨_, rfl, rfl⟩, ⟨_, rfl⟩, ⟨_, rfl⟩, ⟨_, rfl⟩, ⟨_, rfl⟩, _, rfl⟩

theorem witness_Frames_rest :
    (∃ t, exec (.tpSetDigit 1 1) (on .m) = .next t) ∧ (∃ t, exec (.tpSetDigitBcd 1 1) (on .m) = .next t) ∧
      (∃ t, exec .tpClear (on .m) = .next t) ∧ (∃ t, exec .tpFlush (on .m) = .next t) ∧
      (∃ t, exec .tpInit (on .m) = .next t) ∧ (∃ t, exec (.tpShowNoSignal 0) (on .m) = .next t) ∧
      (∃ t, exec (.maSample 600) (on .s) = .next t) ∧ (∃ t, exec (.reservedD 0) (on .p) = .next t) ∧
      (∃ t, exec (.reservedE 0) (on .p) = .next t) ∧ (∃ t, exec (.reservedF 0) (on .p) = .next t) :=
  ⟨⟨_, rfl⟩, ⟨_, rfl⟩, ⟨_, rfl⟩, ⟨_, rfl⟩, ⟨_, rfl⟩, ⟨_, rfl⟩, ⟨_, rfl⟩, ⟨_, rfl⟩, ⟨_, rfl⟩, _, rfl⟩

end Sys2Proof.Tests
end

section
/-! SUPPORT. One step of the block, said once for every command and every agent: what a command's rule leaves alone,
the outcomes a command and an agent have, and the obligations that read off them (10_state.md R22–R25, R39–R41). -/

namespace Sys2Proof.Machine

/-! ### The outcomes of a command -/

/-- What every command's rule leaves alone: the parameters (R39), the streams (R24), the cause of a fault (R226) and
the model's own schedule, port and round. -/
structure State.SameControl (s u : State) : Prop where
  cfg : u.cfg = s.cfg
  streamP : u.streamP = s.streamP
  streamM : u.streamM = s.streamM
  streamS : u.streamS = s.streamS
  faultCause : u.faultCause = s.faultCause
  schedule : u.schedule = s.schedule
  port : u.port = s.port
  round : u.round = s.round

theorem State.SameControl.refl (s : State) : s.SameControl s := ⟨rfl, rfl, rfl, rfl, rfl, rfl, rfl, rfl⟩

theorem State.SameControl.trans {s u v : State} (h : s.SameControl u) (h' : u.SameControl v) : s.SameControl v :=
  ⟨h'.cfg.trans h.cfg, h'.streamP.trans h.streamP, h'.streamM.trans h.streamM, h'.streamS.trans h.streamS,
    h'.faultCause.trans h.faultCause, h'.schedule.trans h.schedule, h'.port.trans h.port, h'.round.trans h.round⟩

theorem State.SameControl.stream {s u : State} (h : s.SameControl u) (q : Port) : u.stream q = s.stream q :=
  State.stream_congr h.streamP h.streamM h.streamS q

theorem State.sameControl_respond (s : State) (v : Response) : s.SameControl (s.respond v) := by
  constructor <;> simp

theorem sameControl_publishWriteDirect (s : State) : s.SameControl (publishWriteDirect s) := by
  unfold publishWriteDirect
  split
  · constructor <;> rfl
  · exact .refl s

theorem sameControl_publishReadDirect (s : State) : s.SameControl (publishReadDirect s) := by
  unfold publishReadDirect
  split
  · constructor <;> rfl
  · exact .refl s

/-! The effect of `MA_SAMPLE` (R200) as record updates: its operations nest the state, and unfolding them in each proof
is slow. -/

theorem integrate_eq (r : Sample) (s : State) :
    integrate r s =
      { s with
        sum := nextSum s.cfg s.sum (winRead s.win s.widx) r
        win := s.win.set s.widx r
        widx := ringNext s.cfg.w s.widx } := rfl

theorem emitIntensity_eq (s : State) :
    emitIntensity s =
      { s with out := s.out ++ [.pair .sample s.cfg.drvIntensityAddr (intensity s.cfg s.sum)] } := rfl

/-- The outcomes of a command in a block with legal parameters: a recorded fault or a fault entry (R226, R227), the
hold and the stop of `Q_POP` (R122, R25), and completion (R24). -/
inductive CommandOutcome (s : State) : Host.Outcome State Fault Refusal → Prop where
  | untouched {t : State} : Untouched s t → CommandOutcome s (.next t)
  | held : s.Running → s.consumerEmpty = true → CommandOutcome s (.next s)
  | stopped : s.Running → s.consumerEmpty = false → memRead s.qmem (s.slotOf s.rptr) = none →
      CommandOutcome s (.fault (.unwrittenQueueSlot (s.slotOf s.rptr)))
  | completed {u : State} : s.Running → s.SameControl u → CommandOutcome s (.next u.advance)

/-- Acceptance leaves only the body's outcomes in a running block to be named. -/
theorem accept_outcome {w : Word} {body : State → Host.Outcome State Fault Refusal} {s : State}
    (hl : s.cfg.legal = true) (hb : s.Running → CommandOutcome s (body s)) : CommandOutcome s (accept w body s) := by
  by_cases hf : s.faultCause = 0
  · by_cases hp : s.port ∈ opcodePorts (fieldOp w)
    · rw [accept_of_allowed ⟨hl, hf⟩ hp]
      exact hb ⟨hl, hf⟩
    · rw [accept_of_wrongPort ⟨hl, hf⟩ hp]
      exact .untouched (.inr ⟨hf, .wrongPort, w, rfl⟩)
  · rw [accept_of_faulted hl hf]
    exact .untouched (.inl ⟨hf, rfl⟩)

theorem raise_outcome {s : State} (hr : s.Running) (c : FaultCause) (w : Word) : CommandOutcome s (raise c w s) :=
  .untouched (.inr ⟨hr.2, c, w, rfl⟩)

theorem complete_outcome {s u : State} (hr : s.Running) (h : s.SameControl u) : CommandOutcome s (complete u) :=
  .completed hr h

/-- A rule that always completes. -/
theorem accept_complete_outcome {w : Word} {g : State → State} {s : State} (hl : s.cfg.legal = true)
    (hg : s.SameControl (g s)) : CommandOutcome s (accept w (fun s => complete (g s)) s) :=
  accept_outcome hl fun hr => complete_outcome hr hg

/-- A rule that always faults. -/
theorem accept_raise_outcome {w : Word} {s : State} (hl : s.cfg.legal = true) (c : FaultCause) :
    CommandOutcome s (accept w (raise c w) s) :=
  accept_outcome hl fun hr => raise_outcome hr c w

theorem execQAppend_outcome {s : State} (hl : s.cfg.legal = true) (d : Byte) :
    CommandOutcome s (execQAppend d s) := by
  refine accept_outcome hl fun hr => ?_
  split
  · exact complete_outcome hr (.refl s)
  · have hs : s.SameControl (storeByte d s) := by constructor <;> rfl
    exact complete_outcome hr (hs.trans (sameControl_publishWriteDirect _))

theorem execQPop_outcome {s : State} (hl : s.cfg.legal = true) : CommandOutcome s (execQPop s) := by
  refine accept_outcome hl fun hr => ?_
  cases he : s.consumerEmpty with
  | true => simpa [he] using CommandOutcome.held hr he
  | false =>
    cases hm : memRead s.qmem (s.slotOf s.rptr) with
    | none => simpa [he, hm] using CommandOutcome.stopped hr he hm
    | some v =>
      have hs (n : Nat) : s.SameControl (s.setRptr n) := by constructor <;> rfl
      simpa [he, hm] using CommandOutcome.completed hr
        (((hs _).trans (sameControl_publishReadDirect _)).trans (State.sameControl_respond _ (.byte v)))

theorem execTpSetDigit_outcome {s : State} (hl : s.cfg.legal = true) (i : Index) (m : Byte) :
    CommandOutcome s (execTpSetDigit i m s) := by
  refine accept_outcome hl fun hr => ?_
  split
  · exact complete_outcome hr (by constructor <;> rfl)
  · exact raise_outcome hr _ _

theorem execTpSetDigitBcd_outcome {s : State} (hl : s.cfg.legal = true) (i : Index) (v : Byte) :
    CommandOutcome s (execTpSetDigitBcd i v s) := by
  refine accept_outcome hl fun hr => ?_
  split
  · split
    · exact complete_outcome hr (by constructor <;> rfl)
    · exact raise_outcome hr _ _
  · exact raise_outcome hr _ _

/-- Every command has one of the four outcomes. -/
theorem exec_outcome {s : State} (hl : s.cfg.legal = true) (i : Instr) : CommandOutcome s (exec i s) := by
  unfold exec
  cases i with
  | qAppend d => exact execQAppend_outcome hl d
  | qPop => exact execQPop_outcome hl
  | qIsEmpty => exact accept_complete_outcome hl (State.sameControl_respond s _)
  | ckReset => exact accept_complete_outcome hl (by constructor <;> rfl)
  | ckUpdate d => exact accept_complete_outcome hl (by constructor <;> rfl)
  | ckRead => exact accept_complete_outcome hl (State.sameControl_respond s _)
  | tpSetDigit i m => exact execTpSetDigit_outcome hl i m
  | tpSetDigitBcd i v => exact execTpSetDigitBcd_outcome hl i v
  | tpClear => exact accept_complete_outcome hl (by constructor <;> rfl)
  | tpFlush => exact accept_complete_outcome hl (by constructor <;> rfl)
  | tpInit => exact accept_complete_outcome hl (by constructor <;> rfl)
  | tpShowNoSignal t => exact accept_complete_outcome hl (by constructor <;> rfl)
  | maSample r => exact accept_complete_outcome hl (by rw [emitIntensity_eq, integrate_eq]; constructor <;> rfl)
  | reservedD x => exact accept_raise_outcome hl _
  | reservedE x => exact accept_raise_outcome hl _
  | reservedF x => exact accept_raise_outcome hl _

/-- So has every word that is presented (R99). -/
theorem runWord_outcome {s : State} (hl : s.cfg.legal = true) (w : Word) : CommandOutcome s (runWord w s) := by
  unfold runWord
  split
  · exact exec_outcome hl _
  · exact accept_raise_outcome hl _

/-! ### What the outcomes have in common -/

theorem Untouched.cfg {s t : State} (h : Untouched s t) : t.cfg = s.cfg := by
  obtain ⟨-, rfl⟩ | ⟨-, c, w, rfl⟩ := h <;> rfl

theorem Untouched.stream {s t : State} (h : Untouched s t) (q : Port) : t.stream q = s.stream q := by
  obtain ⟨-, rfl⟩ | ⟨-, c, w, rfl⟩ := h <;> cases q <;> rfl

theorem CommandOutcome.ne_refused {s : State} {r : Refusal} : ¬ CommandOutcome s (.refused r) := by
  intro h
  cases h

/-- The only stop is at a slot without a value that the consumer's view shows unread. -/
theorem CommandOutcome.of_fault {s : State} {f : Fault} (h : CommandOutcome s (.fault f)) :
    s.consumerEmpty = false ∧ memRead s.qmem (s.slotOf s.rptr) = none := by
  cases h with
  | stopped _ he hm => exact ⟨he, hm⟩

theorem CommandOutcome.cfg_eq {s t : State} (h : CommandOutcome s (.next t)) : t.cfg = s.cfg := by
  cases h with
  | untouched hu => exact hu.cfg
  | held => rfl
  | completed _ hs => simpa using hs.cfg

/-- A command moves its own port's stream past its head when it completes, and no stream otherwise (R23, R24). -/
theorem CommandOutcome.stream_eq {s t : State} (h : CommandOutcome s (.next t)) (q : Port) :
    t.stream q = s.stream q ∨
      (q = s.port ∧ t.stream q = (s.stream q).tail ∧ s.faultCause = 0 ∧ t.faultCause = 0) := by
  cases h with
  | untouched hu => exact .inl (hu.stream q)
  | held => exact .inl rfl
  | completed hr hs =>
    rw [State.stream_advance, hs.stream, hs.port, State.advance_faultCause, hs.faultCause]
    by_cases hq : q = s.port
    · exact .inr ⟨hq, if_pos hq, hr.2, hr.2⟩
    · exact .inl (if_neg hq)

/-! ### The steps of the agents -/

theorem State.stream_setPort (s : State) (r q : Port) : (s.setPort r).stream q = s.stream q := by
  cases q <;> rfl

theorem State.stream_takeTurn (s : State) (q : Port) : s.takeTurn.stream q = s.stream q := by
  cases q <;> rfl

theorem State.stream_resetStep (s : State) (q : Port) : s.resetStep.stream q = s.stream q := by
  cases q <;> rfl

theorem State.Running.takeTurn {s : State} (h : s.Running) : s.takeTurn.Running := h

theorem State.Running.setPort {s : State} (h : s.Running) (q : Port) : (s.setPort q).Running := h

/-- In a running block a port's agent presents the word at its stream's head (R22, R23). -/
theorem agentStep_port_of_head {s : State} {q : Port} {w : Word} (hr : s.Running)
    (hw : (s.stream q).head = some w) : agentStep (.port q) s = runWord w (s.setPort q) := by
  simp [agentStep, portStep, hr.1, hr.2, hw, State.faulted]

/-- A port's turn in a running block, where the word at its stream's head decodes (R23, R99). -/
theorem step_port_of_decode {s : State} {q : Port} {w : Word} {i : Instr} (hr : s.Running)
    (hq : s.turn = .port q) (hw : (s.stream q).head = some w) (hi : decode w = .ok i) :
    step s = exec i (s.takeTurn.setPort q) := by
  have hw' : (s.takeTurn.stream q).head = some w := by rw [State.stream_takeTurn, hw]
  calc step s = runWord w (s.takeTurn.setPort q) := by
        rw [step, hq, agentStep_port_of_head hr.takeTurn hw']
    _ = exec i (s.takeTurn.setPort q) := by simp [runWord, hi]

/-- A step that answers a next state is the first of a longer run. -/
theorem run_succ_of_step (M : Host.Core) {s t : M.State} (h : M.step s = .next t) (n : Nat) :
    M.run (n + 1) s = M.run n t := by
  rw [Host.Core.run, h]

/-- An agent of a block with legal parameters answers a next state, or presents a word that decides the outcome. -/
theorem agentStep_answers_or_runs {s : State} (hl : s.cfg.legal = true) (a : Agent) :
    (∃ t, agentStep a s = .next t) ∨ ∃ q w, agentStep a s = runWord w (s.setPort q) := by
  by_cases hf : s.faultCause = 0
  · cases a with
    | reset => exact .inl ⟨s.resetStep, by simp [agentStep, hl]⟩
    | syncW => exact .inl ⟨syncWriteStep s, by simp [agentStep, hl, hf, State.faulted]⟩
    | syncR => exact .inl ⟨syncReadStep s, by simp [agentStep, hl, hf, State.faulted]⟩
    | port q =>
      cases hw : (s.stream q).head with
      | none => exact .inl ⟨s, by simp [agentStep, portStep, hl, hf, hw, State.faulted]⟩
      | some w => exact .inr ⟨q, w, agentStep_port_of_head ⟨hl, hf⟩ hw⟩
  · have hf : s.faulted = true := by simpa using hf
    refine .inl ?_
    cases a <;> simp [agentStep, hl, hf]

theorem agentStep_of_illegal {s : State} (hl : s.cfg.legal = false) (a : Agent) :
    agentStep a s = .refused .illegalParameters := by
  simp [agentStep, hl]

/-- No agent is refused in a block with legal parameters. -/
theorem agentStep_ne_refused {s : State} (hl : s.cfg.legal = true) (a : Agent) (r : Refusal) :
    agentStep a s ≠ .refused r := by
  intro h
  obtain ⟨t, ht⟩ | ⟨q, w, hw⟩ := agentStep_answers_or_runs hl a
  · simp [ht] at h
  · exact CommandOutcome.ne_refused (h ▸ hw ▸ runWord_outcome (s := s.setPort q) hl w)

/-- An agent's step stops only where the slot the consumer would read next holds no value (R25, log entry 9). -/
theorem agentStep_fault {s : State} {a : Agent} {f : Fault} (h : agentStep a s = .fault f) :
    s.consumerEmpty = false ∧ memRead s.qmem (s.slotOf s.rptr) = none := by
  cases hl : s.cfg.legal with
  | false => simp [agentStep_of_illegal hl] at h
  | true =>
    obtain ⟨t, ht⟩ | ⟨q, w, hw⟩ := agentStep_answers_or_runs hl a
    · simp [ht] at h
    · exact CommandOutcome.of_fault (s := s.setPort q) (h ▸ hw ▸ runWord_outcome (s := s.setPort q) hl w)

theorem agentStep_cfg {a : Agent} {s t : State} (h : agentStep a s = .next t) : t.cfg = s.cfg := by
  obtain ⟨hl, ⟨-, rfl⟩ | ⟨-, rfl⟩ | ⟨-, -, -, rfl⟩ | ⟨-, -, -, rfl⟩ | ⟨q, w, -, -, -, hw⟩⟩ := agentStep_cases h
  · rfl
  · rfl
  · rfl
  · rfl
  · exact CommandOutcome.cfg_eq (s := s.setPort q) (hw ▸ runWord_outcome (s := s.setPort q) hl w)

/-! ### The queue's invariant keeps a pop from an unwritten slot -/

/-- Two different points of the circle have a difference other than 0. -/
theorem ringSub_pos {m a b : Nat} (ha : a < m) (hb : b < m) (h : a ≠ b) : 0 < ringSub m a b := by
  rw [ringSub_of_lt ha hb]
  split <;> omega

theorem State.writeView_lt (s : State) : s.writeView < s.cfg.ringSize :=
  Config_ringSize_eq s.cfg ▸ bin_lt _ _

/-- Where the consumer sees a byte, the slot it would read holds a value (R131). -/
theorem State.QueueInv.readable {s : State} (h : s.QueueInv) (he : s.consumerEmpty = false) :
    (memRead s.qmem (s.slotOf s.rptr)).isSome = true := by
  have hne : s.writeView ≠ s.rptr := by
    intro hv
    simp [State.consumerEmpty, hv] at he
  have hseen : 0 < s.consumerOccupancy := ringSub_pos s.writeView_lt h.rptr_lt hne
  have hocc : 0 < s.occupancy := by
    have := h.writeView_between
    omega
  exact h.unread_written 0 hocc

/-! ### Obligations -/

/-- Settles O15: the rule of `Q_POP` for the stop, and the invariant's unread slots for the converse. -/
theorem onlyUnwrittenSlotsStop : Obligations.OnlyUnwrittenSlotsStop := by
  unfold Obligations.OnlyUnwrittenSlotsStop
  constructor
  · intro s hr hp hne hm
    have he : s.consumerEmpty = false := by simpa [State.consumerEmpty, State.writeView] using hne
    have hm : memRead s.qmem (s.slotOf s.rptr) = none := hm
    have hport : s.port ∈ opcodePorts (fieldOp (encode .qPop)) := by simp [hp]
    have hx : exec .qPop s = .fault (.unwrittenQueueSlot (s.slotOf s.rptr)) := by
      show execQPop s = _
      rw [execQPop, accept_of_allowed hr hport]
      simp [he, hm]
    exact hx
  · intro s f hi h
    obtain ⟨he, hm⟩ := agentStep_fault (s := s.takeTurn) h
    have hsome : (memRead s.qmem (s.slotOf s.rptr)).isSome = true := hi.queue.readable he
    have hnone : memRead s.qmem (s.slotOf s.rptr) = none := hm
    simp [hnone] at hsome

/-- Settles O17: the conditions are those of `Config.legal`, and no agent of a legal block is refused. -/
theorem legalParametersAccepted : Obligations.LegalParametersAccepted := by
  unfold Obligations.LegalParametersAccepted
  intro s hq hd hlen hnd ⟨k, hw⟩ hi hfit hsum hqdw hnpl hbcd hsw
  have hwin : 2 ^ Nat.log2 s.cfg.w = s.cfg.w := by rw [hw, Nat.log2_two_pow]
  have hl : s.cfg.legal = true :=
    (Config.legal_iff s.cfg).mpr ⟨hq, hd, hlen, hnd, hwin, hi, hfit, hsum, hqdw, hnpl, hbcd, hsw⟩
  exact agentStep_ne_refused (s := s.takeTurn) hl s.turn

/-- Settles O18: no agent's step writes the parameters, and taking the turn does not. -/
theorem parametersNeverChange : Obligations.ParametersNeverChange := by
  unfold Obligations.ParametersNeverChange
  intro s t h
  exact agentStep_cfg (s := s.takeTurn) h

/-- Settles O21: only the completion of a port's own command advances its stream. -/
theorem streamsAdvanceInOrder : Obligations.StreamsAdvanceInOrder := by
  unfold Obligations.StreamsAdvanceInOrder
  intro a s t q h
  obtain ⟨hl, ⟨-, rfl⟩ | ⟨-, rfl⟩ | ⟨-, -, -, rfl⟩ | ⟨-, -, -, rfl⟩ | ⟨r, w, rfl, -, -, hw⟩⟩ := agentStep_cases h
  · exact .inl (s.stream_resetStep q)
  · exact .inl rfl
  · exact .inl (by cases q <;> rfl)
  · exact .inl (by cases q <;> rfl)
  · have hc : CommandOutcome (s.setPort r) (.next t) := hw ▸ runWord_outcome (s := s.setPort r) hl w
    have hs := hc.stream_eq q
    rw [State.stream_setPort] at hs
    obtain hs | ⟨hq, hs, hf, hf'⟩ := hs
    · exact .inl hs
    · exact .inr ⟨congrArg Agent.port hq.symm, hs, hf, hf'⟩

/-- Settles O19: the port's agent presents the word at its head, which decodes (`step_port_of_decode`). -/
theorem stepRunsDecodedCommand : Obligations.StepRunsDecodedCommand := by
  unfold Obligations.StepRunsDecodedCommand
  intro s q w i hr hq hw hi
  exact step_port_of_decode hr hq hw hi

end Sys2Proof.Machine
end

section
/-! SUPPORT. Reset (10_state.md R41, 70_reset_and_hazards.md R250, R252) and the independence of the history
(10_state.md R40), with the obligations on them. -/

namespace Sys2Proof.Machine

/-! ### The state after reset -/

theorem queueInv_resetWith (c : Config) : (State.resetWith c).QueueInv where
  stored := List.Pairwise.nil
  inside := by simp [State.resetWith]
  wptr_lt := Config_ringSize_pos c
  rptr_lt := Config_ringSize_pos c
  wqSync_lt := Config_ringSize_pos c
  rqSync_lt := Config_ringSize_pos c
  occupancy_le := by simp [State.occupancy, State.resetWith, ringSub]
  writeView_between := by
    simp [State.consumerOccupancy, State.occupancy, State.writeView, State.resetWith, ringSub]
  readView_behind := by
    simp [State.producerOccupancy, State.occupancy, State.readView, State.resetWith, ringSub]
  producerOccupancy_le := by simp [State.producerOccupancy, State.readView, State.resetWith, ringSub]
  direct_exact := by simp [State.resetWith]
  unread_written := by simp [State.occupancy, State.resetWith, ringSub]

/-- The window of a legal parameter set has a slot (R6). -/
theorem Config_w_pos {c : Config} (hc : c.legal = true) : 0 < c.w := by
  obtain ⟨-, -, -, -, hw, -⟩ := (Config.legal_iff c).mp hc
  exact hw ▸ Nat.two_pow_pos _

theorem windowInv_resetWith {c : Config} (hc : c.legal = true) : (State.resetWith c).WindowInv where
  length_eq := by simp [State.resetWith]
  widx_lt := Config_w_pos hc
  sum_eq := by simp [State.resetWith]

/-- The planes after reset are those `TP_CLEAR` leaves. -/
theorem resetWith_plane (c : Config) : (State.resetWith c).plane = zeroPlanes := rfl

theorem inv_resetWith {c : Config} (hc : c.legal = true) : (State.resetWith c).Inv where
  queue := queueInv_resetWith c
  window := windowInv_resetWith hc
  planes := fun k b _ => by rw [resetWith_plane, getElem_zeroPlanes]; simp
  fault := ⟨by simp [State.resetWith], by simp [State.resetWith], fun _ => ⟨rfl, rfl⟩⟩

/-- What the ports read from a state after reset: empty views (R252). -/
theorem views_resetWith (c : Config) :
    (State.resetWith c).emptyOn .p = true ∧ (State.resetWith c).emptyOn .m = true ∧
      (State.resetWith c).producerOccupancy = 0 := by
  simp [State.emptyOn, State.producerEmpty, State.consumerEmpty, State.producerOccupancy, State.readView,
    State.writeView, State.resetWith, ringSub]

/-! ### Rules that do not read the history -/

/-- The outcome of `f` on a state does not depend on its history, where there is a next state (R40). -/
def HistoryFree (f : State → Host.Outcome State Fault Refusal) : Prop :=
  ∀ s t : State, f s = .next t → ∃ u, f s.forgetHistory = .next u ∧ u.forgetHistory = t.forgetHistory

/-- A total rule whose result, up to the history, does not depend on the history. -/
theorem HistoryFree.next {g : State → State} (hg : ∀ s, (g s.forgetHistory).forgetHistory = (g s).forgetHistory) :
    HistoryFree fun s => .next (g s) := by
  rintro s _ ⟨⟩
  exact ⟨_, rfl, hg s⟩

/-- A choice by a condition that does not read the history. -/
theorem HistoryFree.ite {b : State → Bool} {f g : State → Host.Outcome State Fault Refusal}
    (hb : ∀ s, b s.forgetHistory = b s) (hf : HistoryFree f) (hg : HistoryFree g) :
    HistoryFree fun s => if b s then f s else g s := by
  intro s t h
  simp only [hb]
  cases hs : b s with
  | true => exact hf s t (by simpa [hs] using h)
  | false => exact hg s t (by simpa [hs] using h)

theorem State.forgetHistory_advance (s : State) : s.advance.forgetHistory = s.forgetHistory.advance := by
  obtain hp | hm | hs : s.port = .p ∨ s.port = .m ∨ s.port = .s := by cases s.port <;> simp
  · rw [State.advance_of_p hp, State.advance_of_p (s := s.forgetHistory) hp]
    rfl
  · rw [State.advance_of_m hm, State.advance_of_m (s := s.forgetHistory) hm]
    rfl
  · rw [State.advance_of_s hs, State.advance_of_s (s := s.forgetHistory) hs]
    rfl

theorem State.forgetHistory_respond (s : State) (v : Response) : (s.respond v).forgetHistory = s.forgetHistory := by
  unfold State.respond
  split <;> rfl

/-- A rule that completes is free of the history where its effect is. -/
theorem HistoryFree.complete {g : State → State}
    (hg : ∀ s, (g s.forgetHistory).forgetHistory = (g s).forgetHistory) :
    HistoryFree fun s => complete (g s) :=
  HistoryFree.next fun s => by rw [State.forgetHistory_advance, State.forgetHistory_advance, hg]

theorem HistoryFree.raise (c : FaultCause) (w : Word) : HistoryFree (raise c w) :=
  HistoryFree.next fun _ => rfl

/-- Acceptance reads the parameters, the latch and the port, and no history. -/
theorem HistoryFree.accept {w : Word} {body : State → Host.Outcome State Fault Refusal} (hb : HistoryFree body) :
    HistoryFree (accept w body) := by
  intro s t h
  obtain ⟨hl, ⟨hf, rfl⟩ | ⟨hf, hp, rfl⟩ | ⟨hf, hp, hbody⟩⟩ := accept_next h
  · exact ⟨t.forgetHistory, accept_of_faulted (s := t.forgetHistory) hl hf, rfl⟩
  · exact ⟨_, accept_of_wrongPort (s := s.forgetHistory) ⟨hl, hf⟩ hp, rfl⟩
  · rw [accept_of_allowed (s := s.forgetHistory) ⟨hl, hf⟩ hp]
    exact hb s t hbody

theorem HistoryFree.refused (r : Refusal) : HistoryFree fun _ => .refused r := by
  rintro s t ⟨⟩

theorem forgetHistory_publishWriteDirect (s : State) :
    (publishWriteDirect s).forgetHistory = publishWriteDirect s.forgetHistory := by
  rw [publishWriteDirect, apply_ite State.forgetHistory]
  rfl

theorem forgetHistory_publishReadDirect (s : State) :
    (publishReadDirect s).forgetHistory = publishReadDirect s.forgetHistory := by
  rw [publishReadDirect, apply_ite State.forgetHistory]
  rfl

theorem forgetHistory_syncWriteStep (s : State) :
    (syncWriteStep s).forgetHistory = syncWriteStep s.forgetHistory := by
  rw [syncWriteStep, apply_ite State.forgetHistory]
  rfl

theorem forgetHistory_syncReadStep (s : State) :
    (syncReadStep s).forgetHistory = syncReadStep s.forgetHistory := by
  rw [syncReadStep, apply_ite State.forgetHistory]
  rfl

theorem State.stream_forgetHistory (s : State) (q : Port) : s.forgetHistory.stream q = s.stream q := by
  cases q <;> rfl

/-- The pop of a byte responds, which only the history shows. -/
theorem popByte_historyFree (v : Byte) :
    HistoryFree fun s =>
      complete ((publishReadDirect (s.setRptr (ringNext s.cfg.ringSize s.rptr))).respond (.byte v)) := by
  refine .complete fun s => ?_
  simp only [State.forgetHistory_respond, forgetHistory_publishReadDirect]
  rfl

theorem execQPop_historyFree : HistoryFree execQPop := by
  refine .accept (.ite (b := State.consumerEmpty) (fun _ => rfl) (.next fun _ => rfl) fun s t h => ?_)
  have hread : memRead s.forgetHistory.qmem (s.forgetHistory.slotOf s.forgetHistory.rptr) =
      memRead s.qmem (s.slotOf s.rptr) := rfl
  cases hm : memRead s.qmem (s.slotOf s.rptr) with
  | none => simp [hm] at h
  | some v =>
    simp only [hm] at h
    simp only [hread, hm]
    exact popByte_historyFree v s t h

theorem exec_historyFree (i : Instr) : HistoryFree (exec i) := by
  unfold exec
  cases i with
  | qAppend d =>
    refine .accept (.ite (b := State.producerFull) (fun _ => rfl) (.complete fun _ => rfl) (.complete fun s => ?_))
    rw [forgetHistory_publishWriteDirect, forgetHistory_publishWriteDirect]
    rfl
  | qPop => exact execQPop_historyFree
  | qIsEmpty => exact .accept (.complete fun s => by simp only [State.forgetHistory_respond]; rfl)
  | ckReset => exact .accept (.complete fun _ => rfl)
  | ckUpdate d => exact .accept (.complete fun _ => rfl)
  | ckRead => exact .accept (.complete fun s => by simp only [State.forgetHistory_respond]; rfl)
  | tpSetDigit i m =>
    exact .accept (.ite (b := fun s => digitLegal s.cfg i) (fun _ => rfl) (.complete fun _ => rfl) (.raise _ _))
  | tpSetDigitBcd i v =>
    exact .accept (.ite (b := fun s => digitLegal s.cfg i) (fun _ => rfl)
      (.ite (b := fun _ => bcdLegal v) (fun _ => rfl) (.complete fun _ => rfl) (.raise _ _)) (.raise _ _))
  | tpClear => exact .accept (.complete fun _ => rfl)
  | tpFlush => exact .accept (.complete fun _ => rfl)
  | tpInit => exact .accept (.complete fun _ => rfl)
  | tpShowNoSignal t => exact .accept (.complete fun _ => rfl)
  | maSample r => exact .accept (.complete fun _ => rfl)
  | reservedD x => exact .accept (.raise _ _)
  | reservedE x => exact .accept (.raise _ _)
  | reservedF x => exact .accept (.raise _ _)

theorem runWord_historyFree (w : Word) : HistoryFree (runWord w) := by
  unfold runWord
  cases decode w with
  | ok i => exact exec_historyFree i
  | error e => exact .accept (.raise _ _)

theorem portStep_historyFree (q : Port) : HistoryFree (portStep q) := by
  intro s t h
  unfold portStep at h ⊢
  rw [State.stream_forgetHistory]
  cases hw : (s.stream q).head with
  | none =>
    simp only [hw] at h ⊢
    exact HistoryFree.next (g := id) (fun _ => rfl) s t h
  | some w =>
    simp only [hw] at h ⊢
    exact runWord_historyFree w (s.setPort q) t h

theorem agentStep_historyFree (a : Agent) : HistoryFree (agentStep a) := by
  unfold agentStep
  refine .ite (b := fun s => s.cfg.legal) (fun _ => rfl) ?_ (.refused _)
  cases a with
  | reset => exact .next fun _ => rfl
  | port q => exact .ite (b := State.faulted) (fun _ => rfl) (.next fun _ => rfl) (portStep_historyFree q)
  | syncW =>
    refine .ite (b := State.faulted) (fun _ => rfl) (.next fun _ => rfl) (.next fun s => ?_)
    simp only [forgetHistory_syncWriteStep]
    rfl
  | syncR =>
    refine .ite (b := State.faulted) (fun _ => rfl) (.next fun _ => rfl) (.next fun s => ?_)
    simp only [forgetHistory_syncReadStep]
    rfl

/-! ### Obligations -/

/-- Settles O12: a reset step leaves the hardware elements of `State.resetWith`. -/
theorem stateAfterResetStep : Obligations.StateAfterResetStep := by
  unfold Obligations.StateAfterResetStep
  intro s t h
  obtain ⟨-, ⟨-, rfl⟩ | ⟨hne, -⟩ | ⟨ha, -⟩ | ⟨ha, -⟩ | ⟨q, w, ha, -⟩⟩ := agentStep_cases h
  · obtain ⟨hp, hm, hocc⟩ := views_resetWith s.cfg
    have hplane : ∀ k : Fin 8, s.resetStep.plane[k] = 0 := getElem_zeroPlanes
    have hwin : ∀ v ∈ s.resetStep.win, v = 0 := fun v hv => List.eq_of_mem_replicate hv
    exact ⟨hp, hm, hocc, rfl, rfl, hplane, hwin, rfl, rfl, rfl⟩
  · exact absurd rfl hne
  · cases ha
  · cases ha
  · cases ha

/-- Settles O13: the parts of the invariant, each read off `State.resetWith` (`inv_resetWith`). -/
theorem resetEstablishesInvariant : Obligations.ResetEstablishesInvariant := by
  unfold Obligations.ResetEstablishesInvariant
  exact fun c hc => inv_resetWith hc

/-- Settles O23: acceptance and every rule are free of the history, and so is every agent. -/
theorem historyIsNeverRead : Obligations.HistoryIsNeverRead := by
  unfold Obligations.HistoryIsNeverRead
  exact agentStep_historyFree

end Sys2Proof.Machine
end

section
/-! SUPPORT. `MA_SAMPLE` (43_moving_average.md R200): its effect on a running block, the window's invariant, and runs
of port S over a list of samples, with the obligations on them. -/

namespace Sys2Proof.Machine

/-! ### The command -/

/-- The block after port S has taken one sample, but for its stream. -/
def State.sampled (s : State) (r : Sample) : State :=
  { s with
    sum := nextSum s.cfg s.sum (winRead s.win s.widx) r
    win := s.win.set s.widx r
    widx := ringNext s.cfg.w s.widx
    out := s.out ++ [.pair .sample s.cfg.drvIntensityAddr
      (intensity s.cfg (nextSum s.cfg s.sum (winRead s.win s.widx) r))]
    port := .s }

@[simp] theorem State.sampled_cfg (s : State) (r : Sample) : (s.sampled r).cfg = s.cfg := rfl

@[simp] theorem State.sampled_win (s : State) (r : Sample) : (s.sampled r).win = s.win.set s.widx r := rfl

@[simp] theorem State.sampled_widx (s : State) (r : Sample) : (s.sampled r).widx = ringNext s.cfg.w s.widx := rfl

theorem State.Running.sampled {s : State} (h : s.Running) (r : Sample) : (s.sampled r).Running := h

/-- `MA_SAMPLE` on its port in a running block: the rule's effect, and completion (R200). -/
theorem exec_maSample {s : State} (hr : s.Running) (hp : s.port = .s) (r : Sample) :
    exec (.maSample r) s = .next { s.sampled r with streamS := s.streamS.tail, port := s.port } := by
  have hport : s.port ∈ opcodePorts (fieldOp (encode (.maSample r))) := by simp [hp]
  have hex : exec (.maSample r) s = .next (emitIntensity (integrate r s)).advance := by
    show execMaSample r s = _
    rw [execMaSample, accept_of_allowed hr hport, complete_eq]
  rw [hex, emitIntensity_eq, integrate_eq, State.advance_of_s]
  · rfl
  · exact hp

theorem nextSum_lt (c : Config) (sum : Nat) (old r : Sample) : nextSum c sum old r < 2 ^ c.sumw :=
  Nat.mod_lt _ (Nat.two_pow_pos _)

/-- Where the slot's old value is part of the sum, and the sum fits before and after, nothing wraps (R44, R206). -/
theorem nextSum_of_fits {c : Config} {sum : Nat} {old r : Sample} (hold : old.toNat ≤ sum)
    (hsum : sum < 2 ^ c.sumw) (hfits : sum - old.toNat + r.toNat < 2 ^ c.sumw) :
    nextSum c sum old r = sum - old.toNat + r.toNat := by
  have hshift : sum + (2 ^ c.sumw - old.toNat) = sum - old.toNat + 2 ^ c.sumw := by
    generalize 2 ^ c.sumw = m at *
    omega
  have hrest : (sum - old.toNat) % 2 ^ c.sumw = sum - old.toNat :=
    Nat.mod_eq_of_lt (Nat.lt_of_le_of_lt (Nat.sub_le _ _) hsum)
  rw [nextSum, hshift, Nat.add_mod_right, hrest, Nat.mod_eq_of_lt hfits]

/-! ### The window's invariant -/

/-- The samples of a full window fit the sum's register (R6, R34). -/
theorem windowSum_lt {c : Config} (hc : c.legal = true) {l : List Sample} (hl : l.length = c.w) :
    (l.map BitVec.toNat).sum < 2 ^ c.sumw := by
  obtain ⟨-, -, -, -, hw, -, -, hsum, -, -, -, hsw⟩ := (Config.legal_iff c).mp hc
  have hbound : (l.map BitVec.toNat).sum ≤ c.w * 1023 := by
    have h := List.sum_le_card_nsmul (l.map BitVec.toNat) 1023 (by
      intro x hx
      obtain ⟨v, -, rfl⟩ := List.mem_map.mp hx
      omega)
    simpa [hl] using h
  have hpos := Config_w_pos hc
  calc (l.map BitVec.toNat).sum < c.w * 2 ^ 10 := by omega
    _ = 2 ^ (Nat.log2 c.w + 10) := by rw [Nat.pow_add, hw]
    _ ≤ 2 ^ c.sumw := Nat.pow_le_pow_right (by decide) (by omega)

/-- Replacing an element changes the sum by the difference. -/
theorem sum_set_add_getD (l : List Nat) {i : Nat} (hi : i < l.length) (a : Nat) :
    (l.set i a).sum + l.getD i 0 = l.sum + a := by
  induction l generalizing i with
  | nil => simp at hi
  | cons x xs ih =>
    cases i with
    | zero =>
      simp only [List.set_cons_zero, List.getD_cons_zero, List.sum_cons]
      omega
    | succ i =>
      have hxs := ih (i := i) (by simpa using hi)
      simp only [List.set_cons_succ, List.getD_cons_succ, List.sum_cons]
      omega

/-- The sums of a window before and after a slot takes a new reading. -/
theorem windowSum_set {win : List Sample} {i : Nat} (hi : i < win.length) (r : Sample) :
    ((win.set i r).map BitVec.toNat).sum + (winRead win i).toNat = (win.map BitVec.toNat).sum + r.toNat := by
  have h := sum_set_add_getD (win.map BitVec.toNat) (i := i) (by simpa using hi) r.toNat
  have hread : (win.map BitVec.toNat).getD i 0 = (winRead win i).toNat := List.getD_map (d := (0 : Sample)) ..
  rw [List.map_set, ← hread, h]

theorem windowSum_ge_winRead {win : List Sample} {i : Nat} (hi : i < win.length) :
    (winRead win i).toNat ≤ (win.map BitVec.toNat).sum := by
  have h := windowSum_set hi 0
  rw [show (0 : Sample).toNat = 0 from rfl] at h
  omega

/-- In a state of the window's invariant the new sum is exact (R200, R206). -/
theorem State.WindowInv.nextSum_eq {s : State} (h : s.WindowInv) (hc : s.cfg.legal = true) (r : Sample) :
    nextSum s.cfg s.sum (winRead s.win s.widx) r = s.sum - (winRead s.win s.widx).toNat + r.toNat := by
  have hi : s.widx < s.win.length := h.length_eq ▸ h.widx_lt
  have hold := windowSum_ge_winRead hi
  have hset := windowSum_set hi r
  have hsum := windowSum_lt hc h.length_eq
  have hafter : (((s.win.set s.widx r).map BitVec.toNat).sum) < 2 ^ s.cfg.sumw :=
    windowSum_lt hc (by simp [h.length_eq])
  rw [← h.sum_eq] at hold hset hsum
  exact nextSum_of_fits hold hsum (by omega)

/-- A sample keeps the window's invariant (R44). -/
theorem State.WindowInv.integrate {s : State} (h : s.WindowInv) (hc : s.cfg.legal = true) (r : Sample) :
    (integrate r s).WindowInv where
  length_eq := by simp [Machine.integrate, h.length_eq]
  widx_lt := ringNext_lt (Nat.lt_of_le_of_lt (Nat.zero_le _) h.widx_lt)
  sum_eq := by
    have hi : s.widx < s.win.length := h.length_eq ▸ h.widx_lt
    have hold := windowSum_ge_winRead hi
    have hset := windowSum_set hi r
    have hnew := h.nextSum_eq hc r
    rw [← h.sum_eq] at hold hset
    show nextSum s.cfg s.sum (winRead s.win s.widx) r = ((s.win.set s.widx r).map BitVec.toNat).sum
    omega

theorem State.WindowInv.sampled {s : State} (h : s.WindowInv) (hc : s.cfg.legal = true) (r : Sample) :
    (s.sampled r).WindowInv := by
  obtain ⟨hlen, hidx, hsum⟩ := h.integrate hc r
  rw [integrate_eq] at hlen hidx hsum
  exact ⟨hlen, hidx, hsum⟩

/-! ### Runs of port S -/

/-- The decoder reads the word of `MA_SAMPLE` as that command (R95). -/
theorem decode_encode_maSample (r : Sample) : decode (encode (.maSample r)) = .ok (.maSample r) := by
  have hop : fieldOp (encode (.maSample r)) = 0xC#4 := fieldOp_encode_maSample r
  have hzero : encode (.maSample r) &&& zeroMask 0xC#4 = 0#16 := by
    show (0xC#4 ++ 0#2 ++ r) &&& ((0x0#4 ++ 0x3#2) ++ 0#10) = 0#16
    rw [BitVec.and_append, BitVec.and_append]
    simp
  have hinstr : instrOf (encode (.maSample r)) = .maSample r := by
    simp only [instrOf, hop]
    exact congrArg Instr.maSample (fieldSample_append 0xC#4 0#2 r)
  rw [decode, hop, if_pos hzero, hinstr]

/-- The block after port S has taken the samples of a list, oldest first. -/
def State.sampledAll (s : State) (vs : List Sample) : State := vs.foldl State.sampled s

@[simp] theorem State.sampledAll_nil (s : State) : s.sampledAll [] = s := rfl

@[simp] theorem State.sampledAll_cons (s : State) (v : Sample) (vs : List Sample) :
    s.sampledAll (v :: vs) = (s.sampled v).sampledAll vs := rfl

theorem State.WindowInv.sampledAll {s : State} (h : s.WindowInv) (hc : s.cfg.legal = true) (vs : List Sample) :
    (s.sampledAll vs).WindowInv := by
  induction vs generalizing s with
  | nil => exact h
  | cons v vs ih => exact ih (h.sampled hc v) hc

/-- One turn of port S takes the next sample. -/
theorem step_withSamples_cons {s : State} (hr : s.Running) (v : Sample) (vs : List Sample) (later : CommandStream)
    (rest : List Agent) :
    step (s.withSamples (v :: vs) later rest) = .next ((s.sampled v).withSamples vs later rest) := by
  have hr' : (s.withSamples (v :: vs) later rest).Running := hr
  obtain ⟨hturn, htake⟩ := State.turn_of_cons (s := s.withSamples (v :: vs) later rest) rfl
  rw [step_port_of_decode hr' hturn rfl (decode_encode_maSample v), exec_maSample (hr'.takeTurn.setPort .s) rfl, htake]
  rfl

/-- A run of as many turns of port S as there are samples takes them all. -/
theorem run_withSamples {s : State} (hr : s.Running) (vs : List Sample) (later : CommandStream) (rest : List Agent) :
    Host.Core.run core vs.length (s.withSamples vs later rest) =
      .next ((s.sampledAll vs).withSamples [] later rest) := by
  induction vs generalizing s with
  | nil => rfl
  | cons v vs ih =>
    calc Host.Core.run core (vs.length + 1) (s.withSamples (v :: vs) later rest)
        = Host.Core.run core vs.length ((s.sampled v).withSamples vs later rest) :=
          run_succ_of_step core (step_withSamples_cons hr v vs later rest) vs.length
      _ = .next ((s.sampledAll (v :: vs)).withSamples [] later rest) := ih (hr.sampled v)

/-! ### Warming up -/

/-- Samples into the free slots of a window stand there in order, before the slots still free. -/
theorem sampledAll_fills {s : State} {done : List Sample} {free : Nat} {vs : List Sample}
    (hwin : s.win = done ++ List.replicate free 0) (hidx : s.widx = done.length)
    (hw : s.cfg.w = done.length + free) (hlt : vs.length < free) :
    (s.sampledAll vs).win = done ++ vs ++ List.replicate (free - vs.length) 0 ∧
      (s.sampledAll vs).widx = done.length + vs.length := by
  induction vs generalizing s done free with
  | nil => simp [hwin, hidx]
  | cons v vs ih =>
    obtain ⟨free, rfl⟩ : ∃ n, free = n + 1 := ⟨free - 1, by simp at hlt; omega⟩
    have hlt : vs.length < free := by simpa using hlt
    have hwin' : (s.sampled v).win = (done ++ [v]) ++ List.replicate free 0 := by
      simp [hwin, hidx, List.replicate_succ]
    have hidx' : (s.sampled v).widx = (done ++ [v]).length := by
      rw [State.sampled_widx, ringNext_of_lt (by omega), if_neg (by omega), hidx]
      simp
    have hw' : (s.sampled v).cfg.w = (done ++ [v]).length + free := by
      simp [hw]
      omega
    have h := ih hwin' hidx' hw' hlt
    simpa [Nat.add_assoc, Nat.add_comm 1] using h

/-! ### Obligations -/

/-- Settles O52: the rule's effect is total, and its sum is taken in the register's width. -/
theorem maSampleAlwaysCompletes : Obligations.MaSampleAlwaysCompletes := by
  unfold Obligations.MaSampleAlwaysCompletes
  intro r s hr hp
  refine ⟨nextSum s.cfg s.sum (winRead s.win s.widx) r, ?_, nextSum_lt _ _ _ _⟩
  rw [exec_maSample hr hp]
  rfl

/-- Settles O54: the run fills the window from its first slot, and the window's invariant gives the sum. -/
theorem warmUpCountsZeros : Obligations.WarmUpCountsZeros := by
  unfold Obligations.WarmUpCountsZeros
  intro c vs later rest hc hlt
  have hr : (State.resetWith c).Running := ⟨hc, rfl⟩
  obtain ⟨hwin, hidx⟩ := sampledAll_fills (s := State.resetWith c) (done := []) (free := c.w) (vs := vs)
    rfl rfl (by simp [State.resetWith]) hlt
  have hinv := (windowInv_resetWith hc).sampledAll hc vs
  have hsum : ((State.resetWith c).sampledAll vs).sum = (vs.map BitVec.toNat).sum := by
    rw [hinv.sum_eq, hwin]
    simp
  exact ⟨_, run_withSamples hr vs later rest, hwin, hidx.trans (Nat.zero_add _), congrArg (· / c.w) hsum⟩

end Sys2Proof.Machine
end

section
/-! SUPPORT. What one step adds to `OUT` (20_memory.md R64, R74; 42_plane_transposer.md R173, R174;
43_moving_average.md R205), with the obligation on it. -/

namespace Sys2Proof.Machine

@[simp] theorem storeByte_out (d : Byte) (s : State) : (storeByte d s).out = s.out := rfl

@[simp] theorem publishWriteDirect_out (s : State) : (publishWriteDirect s).out = s.out := by
  unfold publishWriteDirect
  split <;> rfl

@[simp] theorem publishReadDirect_out (s : State) : (publishReadDirect s).out = s.out := by
  unfold publishReadDirect
  split <;> rfl

theorem Untouched.out {s t : State} (h : Untouched s t) : t.out = s.out := by
  obtain ⟨-, rfl⟩ | ⟨-, c, w, rfl⟩ := h <;> rfl

/-- What a command on the issuing port may add to `OUT`: nothing, or one whole burst (R74). -/
inductive AddsBurst (s t : State) : Prop where
  | nothing : t.out = s.out → AddsBurst s t
  | sample (x : Byte) : s.port = .s → t.out = (s.emit .sample s.cfg.drvIntensityAddr x).out → AddsBurst s t
  | flush : s.port = .m → t.out = (s.emitAll .flush (flushPairs s.plane)).out → AddsBurst s t
  | init : s.port = .m → t.out = (s.emitAll .init (initPairs s.cfg)).out → AddsBurst s t

theorem Untouched.addsBurst {s t : State} (h : Untouched s t) : AddsBurst s t := .nothing h.out

theorem execQAppend_addsBurst {d : Byte} {s t : State} (h : execQAppend d s = .next t) : AddsBurst s t := by
  obtain hu | ⟨-, -, ⟨-, rfl⟩ | ⟨-, rfl⟩⟩ := execQAppend_cases h
  · exact hu.addsBurst
  · exact .nothing (by simp)
  · exact .nothing (by simp)

theorem execQPop_addsBurst {s t : State} (h : execQPop s = .next t) : AddsBurst s t := by
  obtain hu | ⟨-, -, ⟨-, rfl⟩ | ⟨-, v, -, rfl⟩⟩ := execQPop_cases h
  · exact hu.addsBurst
  · exact .nothing rfl
  · exact .nothing (by simp)

theorem execMaSample_addsBurst {r : Sample} {s t : State} (h : execMaSample r s = .next t) : AddsBurst s t := by
  obtain hu | ⟨-, hp, rfl⟩ := execMaSample_cases h
  · exact hu.addsBurst
  · exact .sample (intensity s.cfg (integrate r s).sum) hp (by rw [State.advance_out]; rfl)

/-- Only `MA_SAMPLE`, `TP_FLUSH` and `TP_INIT` emit, each its one burst. -/
theorem exec_addsBurst {i : Instr} {s t : State} (h : exec i s = .next t) : AddsBurst s t := by
  cases i with
  | qAppend d => exact execQAppend_addsBurst h
  | qPop => exact execQPop_addsBurst h
  | qIsEmpty => exact (execQIsEmpty_cases h).elim (·.addsBurst) fun ⟨_, _, ht⟩ => .nothing (by simp [ht])
  | ckReset => exact (execCkReset_cases h).elim (·.addsBurst) fun ⟨_, _, ht⟩ => .nothing (by simp [ht])
  | ckUpdate d => exact (execCkUpdate_cases h).elim (·.addsBurst) fun ⟨_, _, ht⟩ => .nothing (by simp [ht])
  | ckRead => exact (execCkRead_cases h).elim (·.addsBurst) fun ⟨_, _, ht⟩ => .nothing (by simp [ht])
  | tpSetDigit k m =>
    exact (execTpSetDigit_cases h).elim (·.addsBurst) fun ⟨_, _, _, ht⟩ => .nothing (by simp [ht, writeDigit])
  | tpSetDigitBcd k v =>
    exact (execTpSetDigitBcd_cases h).elim (·.addsBurst) fun ⟨_, _, _, _, ht⟩ =>
      .nothing (by simp [ht, writeDigit])
  | tpClear => exact (execTpClear_cases h).elim (·.addsBurst) fun ⟨_, _, ht⟩ => .nothing (by simp [ht])
  | tpFlush => exact (execTpFlush_cases h).elim (·.addsBurst) fun ⟨_, hp, ht⟩ => .flush hp (by simp [ht])
  | tpInit => exact (execTpInit_cases h).elim (·.addsBurst) fun ⟨_, hp, ht⟩ => .init hp (by simp [ht])
  | tpShowNoSignal v =>
    exact (execTpShowNoSignal_cases h).elim (·.addsBurst) fun ⟨_, _, ht⟩ => .nothing (by simp [ht])
  | maSample r => exact execMaSample_addsBurst h
  | reservedD x => exact (execReservedD_cases h).addsBurst
  | reservedE x => exact (execReservedE_cases h).addsBurst
  | reservedF x => exact (execReservedF_cases h).addsBurst

theorem runWord_addsBurst {w : Word} {s t : State} (h : runWord w s = .next t) : AddsBurst s t := by
  obtain hu | ⟨i, -, hi⟩ := runWord_cases h
  · exact hu.addsBurst
  · exact exec_addsBurst hi

/-! ### Obligation -/

/-- Settles O24: a port's step adds its command's burst (`exec_addsBurst`), a reset its marker, a sync agent nothing. -/
theorem burstsAreWhole : Obligations.BurstsAreWhole := by
  unfold Obligations.BurstsAreWhole
  intro a s t h
  obtain ⟨-, ⟨ha, rfl⟩ | ⟨-, rfl⟩ | ⟨-, -, -, rfl⟩ | ⟨-, -, -, rfl⟩ | ⟨q, w, rfl, -, -, hw⟩⟩ := agentStep_cases h
  · exact .inr (.inr (.inr (.inr ⟨ha, rfl⟩)))
  · exact .inl rfl
  · exact .inl rfl
  · exact .inl rfl
  · cases runWord_addsBurst hw with
    | nothing hout => exact .inl hout
    | sample x hq hout => exact .inr (.inl ⟨congrArg Agent.port hq, x, hout⟩)
    | flush hq hout => exact .inr (.inr (.inl ⟨congrArg Agent.port hq, hout⟩))
    | init hq hout => exact .inr (.inr (.inr (.inl ⟨congrArg Agent.port hq, hout⟩)))

end Sys2Proof.Machine
end

section
/-! SUPPORT. The encoder, the decoder and the opcode map agree (30_encoding.md R91, R95, R98), with the obligations on
them. -/

namespace Sys2Proof

/-! ### The word of a command -/

@[simp] theorem fieldD_encode_qAppend (d : Byte) : fieldD (encode (.qAppend d)) = d := fieldD_append _ _ _
@[simp] theorem fieldD_encode_ckUpdate (d : Byte) : fieldD (encode (.ckUpdate d)) = d := fieldD_append _ _ _
@[simp] theorem fieldA_encode_tpSetDigit (i : Index) (m : Byte) : fieldA (encode (.tpSetDigit i m)) = i :=
  fieldA_append _ _ _
@[simp] theorem fieldD_encode_tpSetDigit (i : Index) (m : Byte) : fieldD (encode (.tpSetDigit i m)) = m :=
  fieldD_append _ _ _
@[simp] theorem fieldA_encode_tpSetDigitBcd (i : Index) (v : Byte) : fieldA (encode (.tpSetDigitBcd i v)) = i :=
  fieldA_append _ _ _
@[simp] theorem fieldD_encode_tpSetDigitBcd (i : Index) (v : Byte) : fieldD (encode (.tpSetDigitBcd i v)) = v :=
  fieldD_append _ _ _
@[simp] theorem fieldD_encode_tpShowNoSignal (t : Byte) : fieldD (encode (.tpShowNoSignal t)) = t :=
  fieldD_append _ _ _
@[simp] theorem fieldSample_encode_maSample (r : Sample) : fieldSample (encode (.maSample r)) = r :=
  fieldSample_append _ _ _
@[simp] theorem fieldRest_encode_reservedD (x : BitVec 12) : fieldRest (encode (.reservedD x)) = x :=
  fieldRest_append_rest _ _
@[simp] theorem fieldRest_encode_reservedE (x : BitVec 12) : fieldRest (encode (.reservedE x)) = x :=
  fieldRest_append_rest _ _
@[simp] theorem fieldRest_encode_reservedF (x : BitVec 12) : fieldRest (encode (.reservedF x)) = x :=
  fieldRest_append_rest _ _

/-- The opcode and the operands of a command's word are the command's. -/
theorem instrOf_encode (i : Instr) : instrOf (encode i) = i := by
  cases i <;> simp [instrOf]

/-- The word of a row with a zero A field has it zero. -/
theorem data_and_zeroField (x : BitVec 4) (d : Byte) : (x ++ 0#4 ++ d) &&& 0x0F00#16 = 0#16 := by
  rw [show (0x0F00#16) = ((0x0#4 ++ 0xF#4) ++ 0x00#8) from rfl, BitVec.and_append, BitVec.and_append]
  simp

/-- The word of the sample row has its two zero bits zero. -/
theorem sample_and_zeroField (x : BitVec 4) (r : Sample) : (x ++ 0#2 ++ r) &&& 0x0C00#16 = 0#16 := by
  rw [show (0x0C00#16) = ((0x0#4 ++ 0x3#2) ++ 0#10) from rfl, BitVec.and_append, BitVec.and_append]
  simp

/-- The zero fields of a command's word are zero (R98). -/
theorem encode_and_zeroMask (i : Instr) : encode i &&& zeroMask (fieldOp (encode i)) = 0#16 := by
  cases i with
  | qAppend d => rw [fieldOp_encode_qAppend]; exact data_and_zeroField 0x0#4 d
  | ckUpdate d => rw [fieldOp_encode_ckUpdate]; exact data_and_zeroField 0x4#4 d
  | tpShowNoSignal t => rw [fieldOp_encode_tpShowNoSignal]; exact data_and_zeroField 0xB#4 t
  | maSample r => rw [fieldOp_encode_maSample]; exact sample_and_zeroField 0xC#4 r
  | tpSetDigit k m => rw [fieldOp_encode_tpSetDigit]; exact BitVec.and_zero
  | tpSetDigitBcd k v => rw [fieldOp_encode_tpSetDigitBcd]; exact BitVec.and_zero
  | reservedD x => rw [fieldOp_encode_reservedD]; exact BitVec.and_zero
  | reservedE x => rw [fieldOp_encode_reservedE]; exact BitVec.and_zero
  | reservedF x => rw [fieldOp_encode_reservedF]; exact BitVec.and_zero
  | qPop | qIsEmpty | ckReset | ckRead | tpClear | tpFlush | tpInit => decide

/-! ### The decoder -/

/-- A word decodes where its zero fields are zero, to the command of its opcode and operands. -/
theorem decode_eq_ok_iff {w : Word} {i : Instr} :
    decode w = .ok i ↔ w &&& zeroMask (fieldOp w) = 0#16 ∧ instrOf w = i := by
  unfold decode
  split <;> simp_all

/-- A word is rejected where a zero field is not zero. -/
theorem decode_eq_error_iff {w : Word} :
    decode w = .error (.reservedField (fieldOp w)) ↔ w &&& zeroMask (fieldOp w) ≠ 0#16 := by
  unfold decode
  split <;> simp_all

theorem decode_encode (i : Instr) : decode (encode i) = .ok i :=
  decode_eq_ok_iff.mpr ⟨encode_and_zeroMask i, instrOf_encode i⟩

/-! ### A word and its fields -/

theorem fieldOp_and (w m : Word) : fieldOp (w &&& m) = fieldOp w &&& fieldOp m := BitVec.extractLsb'_and
theorem fieldRest_and (w m : Word) : fieldRest (w &&& m) = fieldRest w &&& fieldRest m := BitVec.extractLsb'_and

theorem fieldOp_append_fieldRest (w : Word) : fieldOp w ++ fieldRest w = w :=
  (BitVec.extractLsb'_append_extractLsb'_eq_extractLsb' rfl).trans BitVec.extractLsb'_eq_self

/-- A word is its opcode and its other twelve bits (R91). -/
theorem word_eq_iff {w v : Word} : w = v ↔ fieldOp w = fieldOp v ∧ fieldRest w = fieldRest v := by
  refine ⟨fun h => h ▸ ⟨rfl, rfl⟩, fun ⟨hop, hrest⟩ => ?_⟩
  rw [← fieldOp_append_fieldRest w, hop, hrest, fieldOp_append_fieldRest]

/-- The zero fields lie outside the opcode. -/
theorem fieldOp_zeroMask : ∀ op : BitVec 4, fieldOp (zeroMask op) = 0#4 := by decide

theorem and_zeroMask_eq_zero_iff {w : Word} {op : BitVec 4} :
    w &&& zeroMask op = 0#16 ↔ fieldRest w &&& fieldRest (zeroMask op) = 0#12 := by
  rw [word_eq_iff, fieldOp_and, fieldRest_and, fieldOp_zeroMask, BitVec.and_zero]
  exact and_iff_right rfl

/-! ### A word that decodes is its command's -/

theorem fieldOp_append_fieldA_append_fieldD (w : Word) : fieldOp w ++ fieldA w ++ fieldD w = w := by
  apply BitVec.eq_of_getLsbD_eq
  intro i hi
  simp only [fieldOp, fieldA, fieldD, BitVec.getLsbD_append, BitVec.getLsbD_extractLsb']
  grind

/-! A word whose zero fields are zero, put together again from its opcode and its operands, for each layout of R95. -/

section Layouts

variable {w : Word} {op : BitVec 4} (hop : (fieldOp w).toNat = op.toNat) (hz : w &&& zeroMask (fieldOp w) = 0#16)
include hop

theorem rest_word_eq : op ++ fieldRest w = w :=
  BitVec.eq_of_toNat_eq hop ▸ fieldOp_append_fieldRest w

theorem digit_word_eq : op ++ fieldA w ++ fieldD w = w := by
  rw [← BitVec.eq_of_toNat_eq hop, fieldOp_append_fieldA_append_fieldD]

include hz

theorem fixed_word_eq (hm : zeroMask op = 0x0FFF#16) : op ++ 0#12 = w := by
  rw [BitVec.eq_of_toNat_eq hop, and_zeroMask_eq_zero_iff, hm] at hz
  have hrest : fieldRest w = 0#12 := BitVec.and_allOnes.symm.trans hz
  rw [← hrest, rest_word_eq hop]

theorem data_word_eq (hm : zeroMask op = 0x0F00#16) : op ++ 0#4 ++ fieldD w = w := by
  rw [BitVec.eq_of_toNat_eq hop, hm] at hz
  have hA : fieldA w = 0#4 := by
    have h := congrArg fieldA hz
    simpa [fieldA, BitVec.extractLsb'_and, Laws.and_ones4] using h
  rw [← hA, digit_word_eq hop]

theorem sample_word_eq (hm : zeroMask op = 0x0C00#16) : op ++ 0#2 ++ fieldSample w = w := by
  rw [BitVec.eq_of_toNat_eq hop, hm] at hz
  have hbits : w.extractLsb' 10 2 = 0#2 := by
    have h := congrArg (BitVec.extractLsb' 10 2) hz
    simpa [BitVec.extractLsb'_and, Laws.and_ones2] using h
  rw [← hbits, ← BitVec.eq_of_toNat_eq hop]
  apply BitVec.eq_of_getLsbD_eq
  intro i hi
  simp only [fieldOp, fieldSample, BitVec.getLsbD_append, BitVec.getLsbD_extractLsb']
  grind

end Layouts

/-- A word whose zero fields are zero is the word of its command (R91, R95). -/
theorem encode_instrOf {w : Word} (hz : w &&& zeroMask (fieldOp w) = 0#16) : encode (instrOf w) = w := by
  unfold instrOf
  split
  next h => exact data_word_eq (op := 0x0#4) h hz rfl
  next h => exact fixed_word_eq (op := 0x1#4) h hz rfl
  next h => exact fixed_word_eq (op := 0x2#4) h hz rfl
  next h => exact fixed_word_eq (op := 0x3#4) h hz rfl
  next h => exact data_word_eq (op := 0x4#4) h hz rfl
  next h => exact fixed_word_eq (op := 0x5#4) h hz rfl
  next h => exact digit_word_eq (op := 0x6#4) h
  next h => exact digit_word_eq (op := 0x7#4) h
  next h => exact fixed_word_eq (op := 0x8#4) h hz rfl
  next h => exact fixed_word_eq (op := 0x9#4) h hz rfl
  next h => exact fixed_word_eq (op := 0xA#4) h hz rfl
  next h => exact data_word_eq (op := 0xB#4) h hz rfl
  next h => exact sample_word_eq (op := 0xC#4) h hz rfl
  next h => exact rest_word_eq (op := 0xD#4) h
  next h => exact rest_word_eq (op := 0xE#4) h
  next =>
    have hlt := (fieldOp w).isLt
    have h : (fieldOp w).toNat = 15 := by grind
    exact rest_word_eq (op := 0xF#4) h

end Sys2Proof

namespace Sys2Proof.Laws

/-- The word of every command selects the row with its mnemonic (R95). -/
theorem encodingRow (i : Instr) : EncodingRow.Statement i := by
  cases i with
  | qAppend d => exact EncodingRow.qAppend d
  | qPop => exact EncodingRow.qPop
  | qIsEmpty => exact EncodingRow.qIsEmpty
  | ckReset => exact EncodingRow.ckReset
  | ckUpdate d => exact EncodingRow.ckUpdate d
  | ckRead => exact EncodingRow.ckRead
  | tpSetDigit k m => exact EncodingRow.tpSetDigit k m
  | tpSetDigitBcd k v => exact EncodingRow.tpSetDigitBcd k v
  | tpClear => exact EncodingRow.tpClear
  | tpFlush => exact EncodingRow.tpFlush
  | tpInit => exact EncodingRow.tpInit
  | tpShowNoSignal t => exact EncodingRow.tpShowNoSignal t
  | maSample r => exact EncodingRow.maSample r
  | reservedD x => exact EncodingRow.reservedD x
  | reservedE x => exact EncodingRow.reservedE x
  | reservedF x => exact EncodingRow.reservedF x

end Sys2Proof.Laws

namespace Sys2Proof

/-! ### The rows of the opcode map -/

/-- Each row of R95 fixes its opcode and its zero fields, and has its opcode's ports. -/
theorem opcodeMap_row : ∀ r ∈ opcodeMap,
    fieldOp r.mask = 0xF#4 ∧ fieldRest r.mask = fieldRest (zeroMask (fieldOp r.pattern)) ∧
      fieldRest r.pattern = 0#12 ∧ r.ports = opcodePorts (fieldOp r.pattern) := by decide

/-- Every opcode has a row. -/
theorem exists_row : ∀ op : BitVec 4, ∃ r ∈ opcodeMap, fieldOp r.pattern = op := by decide

/-- No two rows bear one mnemonic, nor one opcode. -/
theorem mnemonic_eq_iff : ∀ r ∈ opcodeMap, ∀ q ∈ opcodeMap,
    (r.mnemonic = q.mnemonic ↔ fieldOp r.pattern = fieldOp q.pattern) := by decide

/-- A word selects the row of its opcode, where its zero fields are zero, and no other (R95). -/
theorem selects_iff {r : Row} (hr : r ∈ opcodeMap) (w : Word) :
    r.selects w = true ↔ fieldOp r.pattern = fieldOp w ∧ w &&& zeroMask (fieldOp w) = 0#16 := by
  obtain ⟨hop, hrest, hpat, -⟩ := opcodeMap_row r hr
  rw [Row.selects, beq_iff_eq, word_eq_iff, fieldOp_and, fieldRest_and, hop, hrest, hpat, Laws.and_ones4, eq_comm]
  refine and_congr_right fun h => ?_
  rw [h, and_zeroMask_eq_zero_iff]

/-- The command that a word decodes to bears the mnemonic of exactly the row that the word selects. -/
theorem selects_iff_mnemonic {w : Word} {i : Instr} (h : decode w = .ok i) {r : Row} (hr : r ∈ opcodeMap) :
    r.selects w = true ↔ r.mnemonic = i.mnemonic := by
  obtain ⟨hz, rfl⟩ := decode_eq_ok_iff.mp h
  obtain ⟨q, hq, hname, hsel⟩ := Laws.encodingRow (instrOf w)
  rw [encode_instrOf hz] at hsel
  obtain ⟨hop, -⟩ := (selects_iff hq w).mp hsel
  rw [selects_iff hr, ← hname, mnemonic_eq_iff r hr q hq, hop]
  exact and_iff_left hz

/-- A word whose zero fields are zero selects a row, and one with a zero field that is not zero selects none. -/
theorem exists_selects_iff (w : Word) :
    (∃ r ∈ opcodeMap, r.selects w = true) ↔ w &&& zeroMask (fieldOp w) = 0#16 := by
  constructor
  · rintro ⟨r, hr, hsel⟩
    exact ((selects_iff hr w).mp hsel).2
  · intro hz
    obtain ⟨r, hr, hop⟩ := exists_row (fieldOp w)
    exact ⟨r, hr, (selects_iff hr w).mpr ⟨hop, hz⟩⟩

/-! ### Obligations -/

/-- Settles O1: the zero fields of a command's word are zero, and its opcode and operands are the command's. -/
theorem decodeOfEncode : Obligations.DecodeOfEncode := by
  unfold Obligations.DecodeOfEncode
  exact decode_encode

/-- Settles O2: a word decodes where its zero fields are zero (`decode_eq_ok_iff`), and there it selects the row of its
opcode and no other (`selects_iff`). -/
theorem decoderFollowsOpcodeMap : Obligations.DecoderFollowsOpcodeMap := by
  unfold Obligations.DecoderFollowsOpcodeMap
  refine ⟨?_, ?_, ?_, ?_⟩
  · intro w i h
    obtain ⟨hz, rfl⟩ := decode_eq_ok_iff.mp h
    exact encode_instrOf hz
  · intro w i h r hr
    refine ⟨selects_iff_mnemonic h hr, fun hsel => ?_⟩
    obtain ⟨-, -, -, hports⟩ := opcodeMap_row r hr
    rw [hports, ((selects_iff hr w).mp hsel).1]
  · intro w
    simp [exists_selects_iff, decode_eq_ok_iff]
  · intro w
    rw [decode_eq_error_iff, ne_eq, ← exists_selects_iff]
    simp

/-- Settles O3: each written word is the word of its command. -/
theorem writtenWordsDecode : Obligations.WrittenWordsDecode := by
  unfold Obligations.WrittenWordsDecode
  exact ⟨decode_encode (.qAppend 0x24), decode_encode .qPop, decode_encode (.ckUpdate 0xFF),
    decode_encode (.tpSetDigit 1 0x3F), decode_encode (.tpSetDigitBcd 3 0x83), decode_encode (.maSample 600),
    decode_encode (.reservedE 0x123)⟩

end Sys2Proof
end

section
/-! SUPPORT. The order of the turns (10_state.md R22, 30_encoding.md R102), which no step alters, and its fairness
(40_byte_queue.md R133), with the obligation on them. -/

namespace Sys2Proof.Machine

/-! ### The turns depend on the schedule and the round -/

/-- Two states whose turns to come are the same. -/
structure State.SameTurns (s t : State) : Prop where
  schedule : t.schedule = s.schedule
  round : t.round = s.round

theorem State.SameTurns.turn_eq {s t : State} (h : s.SameTurns t) : t.turn = s.turn := by
  simp [State.turn, State.turns, h.schedule, h.round]

theorem State.SameTurns.takeTurn {s t : State} (h : s.SameTurns t) : s.takeTurn.SameTurns t.takeTurn := by
  constructor <;> simp [State.takeTurn, State.turns, h.schedule, h.round]

theorem State.SameTurns.order_eq {s t : State} (h : s.SameTurns t) (n : Nat) : t.order n = s.order n := by
  induction n generalizing s t with
  | zero => exact h.turn_eq
  | succ n ih => exact ih h.takeTurn

theorem Untouched.sameTurns {s t : State} (h : Untouched s t) : s.SameTurns t := by
  obtain ⟨-, rfl⟩ | ⟨-, c, w, rfl⟩ := h <;> exact ⟨rfl, rfl⟩

theorem CommandOutcome.sameTurns {s t : State} (h : CommandOutcome s (.next t)) : s.SameTurns t := by
  cases h with
  | untouched hu => exact hu.sameTurns
  | held => exact ⟨rfl, rfl⟩
  | completed _ hs => exact ⟨by simpa using hs.schedule, by simpa using hs.round⟩

/-- No agent's step alters the turns to come (R22). -/
theorem agentStep_sameTurns {a : Agent} {s t : State} (h : agentStep a s = .next t) : s.SameTurns t := by
  obtain ⟨hl, ⟨-, rfl⟩ | ⟨-, rfl⟩ | ⟨-, -, -, rfl⟩ | ⟨-, -, -, rfl⟩ | ⟨q, w, -, -, -, hw⟩⟩ := agentStep_cases h
  · exact ⟨rfl, rfl⟩
  · exact ⟨rfl, rfl⟩
  · exact ⟨rfl, rfl⟩
  · exact ⟨rfl, rfl⟩
  · obtain ⟨hs, hr⟩ := CommandOutcome.sameTurns (s := s.setPort q) (hw ▸ runWord_outcome (s := s.setPort q) hl w)
    exact ⟨hs, hr⟩

/-- A run that answers a next state begins with a step that does. -/
theorem step_of_run_succ {M : Host.Core} {s t : M.State} {n : Nat} (h : M.run (n + 1) s = .next t) :
    ∃ u, M.step s = .next u ∧ M.run n u = .next t := by
  rw [Host.Core.run] at h
  split at h
  next u hu => exact ⟨u, hu, h⟩
  next => cases h
  next => cases h

/-- The agent whose turn it is after a run of `n` steps is the `n`-th of the order. -/
theorem turn_of_run {s t : State} {n : Nat} (h : Host.Core.run core n s = .next t) : t.turn = s.order n := by
  induction n generalizing s with
  | zero =>
    cases h
    rfl
  | succ n ih =>
    obtain ⟨u, hu, hrun⟩ := step_of_run_succ h
    exact (ih hrun).trans ((agentStep_sameTurns hu).order_eq n)

/-! ### The turns of a schedule and of a round -/

/-- Past the agents that a schedule names first, the order is that of the rest of the schedule. -/
theorem order_schedule_append (s : State) (front rest : List Agent) (n : Nat) :
    State.order { s with schedule := front ++ rest } (front.length + n) =
      State.order { s with schedule := rest } n := by
  induction front with
  | nil => simp
  | cons a front ih =>
    obtain ⟨-, htake⟩ := State.turn_of_cons (s := { s with schedule := a :: front ++ rest }) rfl
    rw [List.length_cons, Nat.add_right_comm, State.order, htake]
    exact ih

/-- Where the schedule is used up, the order is that of the next round's turns as a schedule. -/
theorem order_nextRound (s : State) (n : Nat) :
    State.order { s with schedule := [] } n =
      State.order { s with schedule := roundTurns s.round, round := s.round + 1 } n := by
  have hcons : ∃ a rest, roundTurns s.round = a :: rest := List.exists_cons_of_ne_nil (by simp [roundTurns])
  obtain ⟨a, rest, hr⟩ := hcons
  cases n <;> simp [State.order, State.turn, State.takeTurn, State.turns, hr]

/-- A round's last turn is its fair turn. -/
theorem order_fairTurn (s : State) :
    State.order { s with schedule := [] } (Config.freeTurns s.round).length = fairAgent s.round := by
  rw [order_nextRound]
  exact order_schedule_append { s with round := s.round + 1 } _ _ 0

/-- Past a round the order is that of the round after it. -/
theorem order_pastRound (s : State) (n : Nat) :
    State.order { s with schedule := [] } ((roundTurns s.round).length + n) =
      State.order { s with schedule := [], round := s.round + 1 } n := by
  rw [order_nextRound]
  simpa using order_schedule_append { s with round := s.round + 1 } (roundTurns s.round) [] n

/-- From every state on each later round begins, after at least as many turns as there are rounds before it. -/
theorem order_reachesRound (s : State) (j : Nat) :
    ∃ k, j ≤ k ∧ ∀ n, s.order (k + n) = State.order { s with schedule := [], round := s.round + j } n := by
  induction j with
  | zero =>
    refine ⟨s.schedule.length, Nat.zero_le _, fun n => ?_⟩
    simpa using order_schedule_append s s.schedule [] n
  | succ j ih =>
    obtain ⟨k, hk, horder⟩ := ih
    refine ⟨k + (roundTurns (s.round + j)).length, ?_, fun n => ?_⟩
    · simp [roundTurns]
      omega
    · rw [Nat.add_assoc, horder]
      exact order_pastRound { s with round := s.round + j } n

/-- Each agent but the reset input has its turn again and again (R133, 92 D28). -/
theorem order_weaklyFair (s : State) : WeaklyFair s.order := by
  intro a ha n
  obtain ⟨r, hr, hfair⟩ := fairAgent_visits ha (s.round + n)
  obtain ⟨k, hk, horder⟩ := order_reachesRound s (r - s.round)
  have hround : s.round + (r - s.round) = r := by omega
  refine ⟨k + (Config.freeTurns r).length, by omega, ?_⟩
  rw [horder, hround, ← hfair]
  exact order_fairTurn { s with round := r }

/-! ### Obligation -/

/-- A port with nothing to take changes nothing (log entry 5). -/
theorem agentStep_port_of_empty {s : State} {q : Port} (hr : s.Running) (hw : (s.stream q).head = none) :
    agentStep (.port q) s = .next s := by
  simp [agentStep, portStep, hr.1, hr.2, hw, State.faulted]

/-- Settles O20: the step of a state is its turn's, no step alters the turns to come (`turn_of_run`), and every round
closes with a fair turn (`order_weaklyFair`). -/
theorem stepFollowsSchedule : Obligations.StepFollowsSchedule := by
  unfold Obligations.StepFollowsSchedule
  refine ⟨?_, ?_, ?_, fun s t n => turn_of_run, fun s a n ha => order_weaklyFair s a ha n⟩
  · intro s a rest h
    obtain ⟨hturn, htake⟩ := State.turn_of_cons h
    rw [step, hturn, htake]
  · intro s a rest h hround
    have hturns : s.turns = a :: rest := (State.turns_of_nil h).trans hround
    simp [step, State.turn, State.takeTurn, hturns, h]
  · intro s q rest hr h hw
    obtain ⟨hturn, htake⟩ := State.turn_of_cons h
    rw [step, hturn, agentStep_port_of_empty hr.takeTurn (by rw [State.stream_takeTurn, hw]), htake]

end Sys2Proof.Machine
end

section
/-! SUPPORT. The commands that port M completes, and runs of port M over a list of them (30_encoding.md R103–R105), with
the obligations on the pseudo-instructions. -/

namespace Sys2Proof.Machine

/-! ### Commands that port M completes -/

/-- A command that port M completes in a running block: R95 lists the port, the operands are legal (R221, R224), and it
does not wait (R122). -/
structure CompletesOnM (c : Config) (i : Instr) : Prop where
  port : Port.m ∈ opcodePorts (fieldOp (encode i))
  operands : i.wellFormed c = true
  noWait : i ≠ .qPop

/-- The effect of such a command on a block with port M issuing, but for the stream. The commands left out are those
that port M never completes, or not always (R95, R122, R221). -/
def State.effectM (s : State) : Instr → State
  | .qIsEmpty => s.respondM (.bit (BitVec.ofBool s.consumerEmpty))
  | .ckReset => s.setChecksum 0 0
  | .ckUpdate d => s.setChecksum (foldByte (s.ckA, s.ckB) d).1 (foldByte (s.ckA, s.ckB) d).2
  | .ckRead => s.respondM (.word (checksumWord s))
  | .tpSetDigit i m => writeDigit i m s
  | .tpSetDigitBcd i v => writeDigit i (bcdMask s.cfg v) s
  | .tpClear => s.setPlane zeroPlanes
  | .tpFlush => s.emitAll .flush (flushPairs s.plane)
  | .tpInit => s.emitAll .init (initPairs s.cfg)
  | .tpShowNoSignal t => s.setPlane (noSignalPlanes (s.cfg.permAt (tickDigit s.cfg t)))
  | _ => s

theorem exec_of_completesOnM {s : State} {i : Instr} (hr : s.Running) (hp : s.port = .m)
    (hi : CompletesOnM s.cfg i) : exec i s = .next (s.effectM i).advance := by
  obtain ⟨hport, hwf, hwait⟩ := hi
  rw [← hp] at hport
  unfold exec
  cases i with
  | qPop => exact absurd rfl hwait
  | qAppend d => simp [hp] at hport
  | maSample r => simp [hp] at hport
  | reservedD x => cases hwf
  | reservedE x => cases hwf
  | reservedF x => cases hwf
  | qIsEmpty =>
    refine (accept_of_allowed hr hport).trans ?_
    show complete (s.respond (.bit (BitVec.ofBool (s.emptyOn s.port)))) = _
    rw [State.respond_of_m hp, hp]
    rfl
  | ckRead =>
    refine (accept_of_allowed hr hport).trans ?_
    show complete (s.respond (.word (checksumWord s))) = _
    rw [State.respond_of_m hp]
    rfl
  | tpSetDigit k m => exact (accept_of_allowed hr hport).trans (if_pos hwf)
  | tpSetDigitBcd k v =>
    obtain ⟨hd, hv⟩ : digitLegal s.cfg k = true ∧ bcdLegal v = true := Bool.and_eq_true_iff.mp hwf
    exact (accept_of_allowed hr hport).trans ((if_pos hd).trans (if_pos hv))
  | ckReset => exact accept_of_allowed hr hport
  | ckUpdate d => exact accept_of_allowed hr hport
  | tpClear => exact accept_of_allowed hr hport
  | tpFlush => exact accept_of_allowed hr hport
  | tpInit => exact accept_of_allowed hr hport
  | tpShowNoSignal t => exact accept_of_allowed hr hport

theorem State.sameControl_effectM (s : State) (i : Instr) : s.SameControl (s.effectM i) := by
  cases i <;> constructor <;> rfl

/-- The effect does not read the stream and the schedule. -/
theorem State.effectM_withCommandsM (s : State) (i : Instr) (is : List Instr) (later : CommandStream)
    (rest : List Agent) : (s.withCommandsM is later rest).effectM i = (s.effectM i).withCommandsM is later rest := by
  cases i <;> rfl

/-! ### Runs of port M -/

/-- The block after port M has taken a command that completes, but for its stream. -/
def State.takenByM (s : State) (i : Instr) : State := (s.setPort .m).effectM i

@[simp] theorem State.takenByM_cfg (s : State) (i : Instr) : (s.takenByM i).cfg = s.cfg :=
  (State.sameControl_effectM (s.setPort .m) i).cfg

@[simp] theorem State.takenByM_port (s : State) (i : Instr) : (s.takenByM i).port = .m :=
  (State.sameControl_effectM (s.setPort .m) i).port

theorem State.Running.takenByM {s : State} (h : s.Running) (i : Instr) : (s.takenByM i).Running :=
  ⟨by rw [State.takenByM_cfg, h.1], (State.sameControl_effectM (s.setPort .m) i).faultCause.trans h.2⟩

/-- One turn of port M takes the next command. -/
theorem step_withCommandsM_cons {s : State} {i : Instr} (hr : s.Running) (hi : CompletesOnM s.cfg i)
    (is : List Instr) (later : CommandStream) (rest : List Agent) :
    step (s.withCommandsM (i :: is) later rest) = .next ((s.takenByM i).withCommandsM is later rest) := by
  have hr' : (s.withCommandsM (i :: is) later rest).Running := hr
  obtain ⟨hturn, htake⟩ := State.turn_of_cons (s := s.withCommandsM (i :: is) later rest) rfl
  rw [step_port_of_decode hr' hturn rfl (decode_encode i), exec_of_completesOnM (hr'.takeTurn.setPort .m) rfl hi, htake,
    State.advance_of_m (State.sameControl_effectM _ i).port]
  cases i <;> rfl

/-- A run of as many turns of port M as there are commands takes them all. -/
theorem run_withCommandsM {s : State} {is : List Instr} (hr : s.Running) (hi : ∀ i ∈ is, CompletesOnM s.cfg i)
    (later : CommandStream) (rest : List Agent) :
    Host.Core.run core is.length (s.withCommandsM is later rest) =
      .next ((is.foldl State.takenByM s).withCommandsM [] later rest) := by
  induction is generalizing s with
  | nil => rfl
  | cons i is ih =>
    obtain ⟨hi, his⟩ := List.forall_mem_cons.mp hi
    calc Host.Core.run core (is.length + 1) (s.withCommandsM (i :: is) later rest)
        = Host.Core.run core is.length ((s.takenByM i).withCommandsM is later rest) :=
          run_succ_of_step core (step_withCommandsM_cons hr hi is later rest) is.length
      _ = .next (((i :: is).foldl State.takenByM s).withCommandsM [] later rest) :=
          ih (hr.takenByM i) (by simpa using his)

/-! ### The checksum's commands -/

theorem completesOnM_ckReset (c : Config) : CompletesOnM c .ckReset := ⟨by decide, rfl, by simp⟩

theorem completesOnM_ckUpdate (c : Config) (d : Byte) : CompletesOnM c (.ckUpdate d) := ⟨by simp, rfl, by simp⟩

theorem completesOnM_ckRead (c : Config) : CompletesOnM c .ckRead := ⟨by decide, rfl, by simp⟩

theorem completesOnM_ckUpdateMany {c : Config} {bytes : List Byte} : ∀ i ∈ ckUpdateMany bytes, CompletesOnM c i := by
  intro i hi
  obtain ⟨d, -, rfl⟩ := List.mem_map.mp hi
  exact completesOnM_ckUpdate c d

/-- The commands of `CK_UPDATE_MANY` leave the fold of the bytes in the pair (R103, R153). -/
theorem foldl_ckUpdateMany {s : State} (hp : s.port = .m) (bytes : List Byte) :
    (ckUpdateMany bytes).foldl State.takenByM s =
      s.setChecksum (checksumFold (s.ckA, s.ckB) bytes).1 (checksumFold (s.ckA, s.ckB) bytes).2 := by
  induction bytes generalizing s with
  | nil => rfl
  | cons d bytes ih =>
    refine (ih (State.takenByM_port s (.ckUpdate d))).trans ?_
    show ((s.setPort .m).setChecksum _ _).setChecksum _ _ = _
    rw [← hp]
    rfl

/-- `CK_FRAME` expands to a reset, an update for each covered byte, and a read (R104, R156). -/
theorem ckFrame_eq_some {cls id : Byte} {payload : List Byte} {cmds : List Instr}
    (h : ckFrame cls id payload = some cmds) :
    cmds = .ckReset :: (ckUpdateMany (frameCovered cls id payload) ++ [.ckRead]) := by
  unfold ckFrame at h
  split at h
  · simpa [frameCovered, ckUpdateMany] using h.symm
  · cases h

theorem length_frameBytes (cls id : Byte) (payload : List Byte) (a b : Byte) :
    (frameBytes cls id payload a b).length = 8 + payload.length := by
  simp [frameBytes, frameCovered, lengthBytes]
  omega

/-- The bytes' checksum as the commands of a frame leave and respond it: a reset, the updates, and a read. -/
theorem foldl_checksumCommands (s : State) (bytes : List Byte) :
    List.foldl State.takenByM s (.ckReset :: (ckUpdateMany bytes ++ [.ckRead])) =
      ((s.setPort .m).setChecksum (checksumFold (0, 0) bytes).1 (checksumFold (0, 0) bytes).2).respondM
        (.word ((checksumFold (0, 0) bytes).2 ++ (checksumFold (0, 0) bytes).1)) := by
  rw [List.foldl_cons, List.foldl_append, foldl_ckUpdateMany (State.takenByM_port s .ckReset)]
  rfl

/-- Settles O41: the run of the commands (`run_withCommandsM`) leaves the fold of the covered bytes and responds it
(`foldl_checksumCommands`). -/
theorem ckFrameRespondsFrameChecksum : Obligations.CkFrameRespondsFrameChecksum := by
  unfold Obligations.CkFrameRespondsFrameChecksum
  intro s cls id payload cmds later rest hr h
  obtain rfl := ckFrame_eq_some h
  have hall : ∀ i ∈ Instr.ckReset :: (ckUpdateMany (frameCovered cls id payload) ++ [.ckRead]), CompletesOnM s.cfg i := by
    simpa [completesOnM_ckReset, completesOnM_ckRead, or_imp, forall_and] using completesOnM_ckUpdateMany
  have hrun := run_withCommandsM hr hall later rest
  rw [foldl_checksumCommands] at hrun
  exact ⟨_, hrun, rfl, rfl, rfl, length_frameBytes _ _ _ _ _⟩

/-! ### The digits' commands -/

/-- A digit of a value up to 99 is a legal BCD operand, and its mask is its pattern (R171, R172). -/
theorem bcd_digit {n : Nat} (h : n < 10) :
    bcdLegal (BitVec.ofNat 8 n) = true ∧
      ∀ c : Config, c.legal = true → bcdMask c (BitVec.ofNat 8 n) = Config.bcdTable.getD n 0 := by
  have hbits : ∀ k < 10, bcdLegal (BitVec.ofNat 8 k) = true ∧ (BitVec.ofNat 8 k).getLsbD 7 = false ∧
      ((BitVec.ofNat 8 k).extractLsb' 0 4).toNat = k := by decide
  obtain ⟨hlegal, hpoint, hcode⟩ := hbits n h
  refine ⟨hlegal, fun c hc => ?_⟩
  rw [bcdMask, hpoint, if_neg Bool.false_ne_true, bcdPattern_of_legal hc, hcode]

/-- The planes after the two digits of a value at logical digits `n` and `n + 1` (R105). -/
def digitPair (c : Config) (pl : Vector Byte 8) (n v : Nat) : Vector Byte 8 :=
  setColumn (setColumn pl (c.permAt n) (Config.bcdTable.getD (v / 10) 0)) (c.permAt (n + 1))
    (Config.bcdTable.getD (v % 10) 0)

section Pair

variable {i : Index} (hi : (i + 1).toNat = i.toNat + 1) {v : Nat} (hv : v ≤ 99)
include hi hv

theorem completesOnM_bcdPair {c : Config} (h1 : 1 ≤ i.toNat) (hd : i.toNat + 1 ≤ c.digits) :
    ∀ k ∈ bcdPair i v, CompletesOnM c k := by
  have hop {j : Index} (hj : 1 ≤ j.toNat ∧ j.toNat ≤ c.digits) {n : Nat} (hn : n < 10) :
      CompletesOnM c (.tpSetDigitBcd j (BitVec.ofNat 8 n)) :=
    ⟨by simp, Bool.and_eq_true_iff.mpr ⟨(digitLegal_iff c j).mpr hj, (bcd_digit hn).1⟩, by simp⟩
  have htens := hop (j := i) ⟨h1, by omega⟩ (n := v / 10) (by omega)
  have hones := hop (j := i + 1) ⟨by omega, by omega⟩ (n := v % 10) (by omega)
  exact List.forall_mem_cons.mpr ⟨htens, List.forall_mem_singleton.mpr hones⟩

theorem foldl_bcdPair {s : State} (hc : s.cfg.legal = true) :
    (bcdPair i v).foldl State.takenByM s = (s.setPort .m).setPlane (digitPair s.cfg s.plane i.toNat v) := by
  have htens := (bcd_digit (n := v / 10) (by omega)).2 s.cfg hc
  have hones := (bcd_digit (n := v % 10) (by omega)).2 s.cfg hc
  rw [digitPair, ← htens, ← hones, ← hi]
  rfl

end Pair

/-! ### Columns of the planes -/

/-- A byte is the sum of its bits' weights. -/
theorem sum_bits (m : Byte) :
    ((List.finRange 8).map fun k => (m.getLsbD k.val).toNat * 2 ^ k.val).sum = m.toNat := by
  revert m
  decide

theorem columnOf_setColumn (pl : Vector Byte 8) (p q : Fin 8) (m : Byte) :
    columnOf (setColumn pl p m) q = if q = p then m else columnOf pl q := by
  simp only [columnOf, getLsbD_setColumn]
  split
  · rw [sum_bits, BitVec.ofNat_toNat, BitVec.setWidth_eq]
  · rfl

/-- Different digits have different physical positions (R6, R32). -/
theorem permAt_inj {c : Config} (hc : c.legal = true) {i j : Nat} (hi : 1 ≤ i ∧ i ≤ c.digits)
    (hj : 1 ≤ j ∧ j ≤ c.digits) : c.permAt i = c.permAt j ↔ i = j := by
  obtain ⟨-, -, hlen, hnodup, -⟩ := (Config.legal_iff c).mp hc
  refine ⟨fun h => ?_, fun h => h ▸ rfl⟩
  have hget : c.perm[i - 1]? = c.perm[j - 1]? := by
    rw [permAt_of_digit hc hi.1 hi.2, permAt_of_digit hc hj.1 hj.2, h]
  have := (List.getElem?_inj (by omega) hnodup).mp hget
  omega

theorem columnOf_digitPair {c : Config} (hc : c.legal = true) {n j v : Nat} (hn : 1 ≤ n ∧ n + 1 ≤ c.digits)
    (hj : 1 ≤ j ∧ j ≤ c.digits) (pl : Vector Byte 8) :
    columnOf (digitPair c pl n v) (c.permAt j) =
      if j = n + 1 then Config.bcdTable.getD (v % 10) 0
      else if j = n then Config.bcdTable.getD (v / 10) 0 else columnOf pl (c.permAt j) := by
  simp only [digitPair, columnOf_setColumn, permAt_inj hc hj ⟨Nat.le_add_left 1 n, hn.2⟩,
    permAt_inj hc hj ⟨hn.1, Nat.le_of_succ_le hn.2⟩]

/-! ### The commands of `TP_SHOW_HMS` -/

theorem tpShowHms_eq_some {h m s : Nat} {cmds : List Instr} (hc : tpShowHms h m s = some cmds) :
    (h ≤ 99 ∧ m ≤ 99 ∧ s ≤ 99) ∧ cmds = bcdPair 1 h ++ bcdPair 3 m ++ bcdPair 5 s ++ [.tpFlush] := by
  unfold tpShowHms at hc
  split at hc
  next hle => exact ⟨hle, (Option.some.inj hc).symm⟩
  next => cases hc

/-- The planes after the six digits of a time (R105). -/
def hmsPlanes (c : Config) (pl : Vector Byte 8) (h m s : Nat) : Vector Byte 8 :=
  digitPair c (digitPair c (digitPair c pl 1 h) 3 m) 5 s

/-- The commands of `TP_SHOW_HMS` complete in a block of six digits. -/
theorem completesOnM_showHms {c : Config} (hd : 6 ≤ c.digits) {h m s : Nat} (hle : h ≤ 99 ∧ m ≤ 99 ∧ s ≤ 99) :
    ∀ i ∈ bcdPair 1 h ++ bcdPair 3 m ++ bcdPair 5 s ++ [.tpFlush], CompletesOnM c i := by
  obtain ⟨hh, hm, hs⟩ := hle
  have hours := completesOnM_bcdPair (c := c) (i := 1) rfl hh (by decide) (by simp; omega)
  have minutes := completesOnM_bcdPair (c := c) (i := 3) rfl hm (by decide) (by simp; omega)
  have seconds := completesOnM_bcdPair (c := c) (i := 5) rfl hs (by decide) (by simp; omega)
  have flush : CompletesOnM c .tpFlush := ⟨by decide, rfl, by simp⟩
  simp only [List.forall_mem_append, List.forall_mem_singleton]
  exact ⟨⟨⟨hours, minutes⟩, seconds⟩, flush⟩

/-- They leave the six digits in the planes and send these. -/
theorem foldl_showHms {x : State} (hc : x.cfg.legal = true) {h m s : Nat} (hle : h ≤ 99 ∧ m ≤ 99 ∧ s ≤ 99) :
    List.foldl State.takenByM x (bcdPair 1 h ++ bcdPair 3 m ++ bcdPair 5 s ++ [.tpFlush]) =
      ((x.setPort .m).setPlane (hmsPlanes x.cfg x.plane h m s)).emitAll .flush
        (flushPairs (hmsPlanes x.cfg x.plane h m s)) := by
  obtain ⟨hh, hm, hs⟩ := hle
  have hours : (bcdPair 1 h).foldl State.takenByM x = (x.setPort .m).setPlane (digitPair x.cfg x.plane 1 h) :=
    foldl_bcdPair rfl hh hc
  have minutes (pl : Vector Byte 8) : (bcdPair 3 m).foldl State.takenByM ((x.setPort .m).setPlane pl) =
      (x.setPort .m).setPlane (digitPair x.cfg pl 3 m) := foldl_bcdPair rfl hm hc
  have seconds (pl : Vector Byte 8) : (bcdPair 5 s).foldl State.takenByM ((x.setPort .m).setPlane pl) =
      (x.setPort .m).setPlane (digitPair x.cfg pl 5 s) := foldl_bcdPair rfl hs hc
  have flush (pl : Vector Byte 8) : [Instr.tpFlush].foldl State.takenByM ((x.setPort .m).setPlane pl) =
      ((x.setPort .m).setPlane pl).emitAll .flush (flushPairs pl) := rfl
  rw [List.foldl_append, List.foldl_append, List.foldl_append, hours, minutes, seconds, flush, hmsPlanes]

/-- Settles O49: the run of the commands (`run_withCommandsM`) writes the three pairs of digits and flushes them
(`foldl_showHms`), each digit in a column of its own (`columnOf_digitPair`). -/
theorem showHmsShowsDigits : Obligations.ShowHmsShowsDigits := by
  unfold Obligations.ShowHmsShowsDigits
  intro x h m s cmds later rest hr hd hcmds
  obtain ⟨hle, rfl⟩ := tpShowHms_eq_some hcmds
  have hrun := run_withCommandsM hr (completesOnM_showHms hd hle) later rest
  rw [foldl_showHms hr.1 hle] at hrun
  have hcol {j : Nat} (hj : 1 ≤ j ∧ j ≤ x.cfg.digits) :
      columnOf (hmsPlanes x.cfg x.plane h m s) (x.cfg.permAt j) =
        if j = 6 then Config.bcdTable.getD (s % 10) 0 else if j = 5 then Config.bcdTable.getD (s / 10) 0
        else if j = 4 then Config.bcdTable.getD (m % 10) 0 else if j = 3 then Config.bcdTable.getD (m / 10) 0
        else if j = 2 then Config.bcdTable.getD (h % 10) 0 else if j = 1 then Config.bcdTable.getD (h / 10) 0
        else columnOf x.plane (x.cfg.permAt j) := by
    rw [hmsPlanes, columnOf_digitPair hr.1 (by omega) hj, columnOf_digitPair hr.1 (by omega) hj,
      columnOf_digitPair hr.1 (by omega) hj]
  exact ⟨_, hrun, rfl, hr.2, hcol (j := 1) (by omega), hcol (j := 2) (by omega), hcol (j := 3) (by omega),
    hcol (j := 4) (by omega), hcol (j := 5) (by omega), hcol (j := 6) (by omega), rfl⟩

end Sys2Proof.Machine
end

section
/-! SUPPORT. The faults a word takes before its command's own rule (30_encoding.md R99, 60_exceptions.md R222, R223):
every command accepts its own word first. -/

namespace Sys2Proof.Machine

/-- Every command is a rule behind the acceptance of the command's word (R99). -/
theorem exec_eq_accept (i : Instr) : ∃ body, ∀ s, exec i s = accept (encode i) body s := by
  cases i <;> exact ⟨_, fun _ => rfl⟩

/-- So is every word that is presented, whether it decodes or not. -/
theorem runWord_eq_accept (w : Word) : ∃ body, ∀ s, runWord w s = accept w body s := by
  unfold runWord
  cases hd : decode w with
  | ok i =>
    obtain ⟨hz, rfl⟩ := decode_eq_ok_iff.mp hd
    simpa [encode_instrOf hz] using exec_eq_accept (instrOf w)
  | error e => exact ⟨_, fun _ => rfl⟩

/-- A word on a port that R95 does not list for its opcode takes WRONG_PORT (R222). -/
theorem runWord_of_wrongPort {w : Word} {s : State} (hr : s.Running) (hp : s.port ∉ opcodePorts (fieldOp w)) :
    runWord w s = .next (s.latch 2 (portCode s.port) w) := by
  obtain ⟨body, hbody⟩ := runWord_eq_accept w
  rw [hbody, accept_of_wrongPort hr hp]

/-- A word with a zero field that is not zero takes RESERVED_FIELD on a port of its opcode (R223). -/
theorem runWord_of_reservedField {w : Word} {s : State} (hr : s.Running) (hp : s.port ∈ opcodePorts (fieldOp w))
    (hz : w &&& zeroMask (fieldOp w) ≠ 0#16) : runWord w s = .next (s.latch 3 (portCode s.port) w) := by
  rw [runWord, decode_eq_error_iff.mpr hz]
  show rejectWord w s = _
  rw [rejectWord, accept_of_allowed hr hp]
  rfl

/-- The two exceptions of every opcode, on the ports and with the zero fields that R95 gives it. -/
theorem commandExceptions (op : BitVec 4) : CommandExceptions op (opcodePorts op) (zeroMask op) := by
  constructor
  · rintro w s hr rfl hp
    exact runWord_of_wrongPort hr hp
  · rintro w s hr rfl hp hz
    exact runWord_of_reservedField hr hp hz

end Sys2Proof.Machine
end

section
/-! SUPPORT. The full effect of the queue's commands and of the sync agents in a running block (40_byte_queue.md
R120–R123, R125, R126), with the obligations on each. -/

namespace Sys2Proof.Machine

/-! ### Publication in direct mode (R121) -/

theorem publishWriteDirect_eq (s : State) :
    publishWriteDirect s = s.setWqSync (if s.cfg.syncMode = .direct then gray s.wptr else s.wqSync) := by
  unfold publishWriteDirect
  split <;> rfl

theorem publishReadDirect_eq (s : State) :
    publishReadDirect s = s.setRqSync (if s.cfg.syncMode = .direct then gray s.rptr else s.rqSync) := by
  unfold publishReadDirect
  split <;> rfl

/-! ### `Q_APPEND` -/

/-- The queue after a byte is stored, with the pointer's publication in direct mode (R120, R121). -/
def State.appended (s : State) (d : Byte) : State := publishWriteDirect (storeByte d s)

theorem State.appended_eq (s : State) (d : Byte) :
    s.appended d =
      { s with
        qmem := memWrite (s.slotOf s.wptr) d s.qmem
        wptr := ringNext s.cfg.ringSize s.wptr
        wqSync := if s.cfg.syncMode = .direct then gray (ringNext s.cfg.ringSize s.wptr) else s.wqSync } :=
  publishWriteDirect_eq _

@[simp] theorem State.appended_cfg (s : State) (d : Byte) : (s.appended d).cfg = s.cfg := by rw [State.appended_eq]
@[simp] theorem State.appended_qmem (s : State) (d : Byte) :
    (s.appended d).qmem = memWrite (s.slotOf s.wptr) d s.qmem := by rw [State.appended_eq]
@[simp] theorem State.appended_wptr (s : State) (d : Byte) :
    (s.appended d).wptr = ringNext s.cfg.ringSize s.wptr := by rw [State.appended_eq]
@[simp] theorem State.appended_rptr (s : State) (d : Byte) : (s.appended d).rptr = s.rptr := by rw [State.appended_eq]
@[simp] theorem State.appended_wqSync (s : State) (d : Byte) :
    (s.appended d).wqSync =
      if s.cfg.syncMode = .direct then gray (ringNext s.cfg.ringSize s.wptr) else s.wqSync := by
  rw [State.appended_eq]
@[simp] theorem State.appended_rqSync (s : State) (d : Byte) : (s.appended d).rqSync = s.rqSync := by
  rw [State.appended_eq]

section Append

variable {s : State} (hr : s.Running) (hp : s.port = .p) (d : Byte)
include hr hp

theorem exec_qAppend_of_full (hf : s.producerFull = true) :
    exec (.qAppend d) s = .next { s with streamP := s.streamP.tail } := by
  show execQAppend d s = _
  rw [execQAppend, accept_of_allowed hr (by simp [hp]), if_pos hf, complete_eq, State.advance_of_p hp]

theorem exec_qAppend_of_room (hf : s.producerFull = false) :
    exec (.qAppend d) s = .next { s.appended d with streamP := s.streamP.tail } := by
  have hp' : (s.appended d).port = .p := by rw [State.appended_eq, hp]
  show execQAppend d s = _
  rw [execQAppend, accept_of_allowed hr (by simp [hp]), if_neg (by simp [hf]), complete_eq]
  show Host.Outcome.next (s.appended d).advance = _
  rw [State.advance_of_p hp', State.appended_eq]

end Append

/-! ### `Q_POP` -/

/-- The queue after its oldest byte is taken, with the pointer's publication in direct mode (R122, R121). -/
def State.popped (s : State) : State := publishReadDirect (s.setRptr (ringNext s.cfg.ringSize s.rptr))

theorem State.popped_eq (s : State) :
    s.popped =
      { s with
        rptr := ringNext s.cfg.ringSize s.rptr
        rqSync := if s.cfg.syncMode = .direct then gray (ringNext s.cfg.ringSize s.rptr) else s.rqSync } :=
  publishReadDirect_eq _

@[simp] theorem State.popped_cfg (s : State) : s.popped.cfg = s.cfg := by rw [State.popped_eq]
@[simp] theorem State.popped_qmem (s : State) : s.popped.qmem = s.qmem := by rw [State.popped_eq]
@[simp] theorem State.popped_wptr (s : State) : s.popped.wptr = s.wptr := by rw [State.popped_eq]
@[simp] theorem State.popped_rptr (s : State) : s.popped.rptr = ringNext s.cfg.ringSize s.rptr := by
  rw [State.popped_eq]
@[simp] theorem State.popped_wqSync (s : State) : s.popped.wqSync = s.wqSync := by rw [State.popped_eq]
@[simp] theorem State.popped_rqSync (s : State) :
    s.popped.rqSync = if s.cfg.syncMode = .direct then gray (ringNext s.cfg.ringSize s.rptr) else s.rqSync := by
  rw [State.popped_eq]

section Pop

variable {s : State} (hr : s.Running) (hp : s.port = .m)
include hr hp

theorem exec_qPop_of_empty (he : s.consumerEmpty = true) : exec .qPop s = .next s := by
  show execQPop s = _
  rw [execQPop, accept_of_allowed hr (by simp [hp]), if_pos he, hold_eq]

theorem exec_qPop_of_byte (he : s.consumerEmpty = false) {v : Byte}
    (hv : memRead s.qmem (s.slotOf s.rptr) = some v) :
    exec .qPop s = .next { s.popped with respM := s.respM ++ [.byte v], streamM := s.streamM.tail } := by
  have hp' : s.popped.port = .m := by rw [State.popped_eq, hp]
  show execQPop s = _
  rw [execQPop, accept_of_allowed hr (by simp [hp]), if_neg (by simp [he]), hv]
  show Host.Outcome.next (s.popped.respond (.byte v)).advance = _
  rw [State.respond_of_m hp', State.advance_of_m (s := s.popped.respondM _) hp', State.popped_eq]
  rfl

end Pop

/-! ### `Q_IS_EMPTY` -/

section IsEmpty

variable {s : State} (hr : s.Running)
include hr

theorem exec_qIsEmpty_of_p (hp : s.port = .p) :
    exec .qIsEmpty s = .next
      { s with respP := s.respP ++ [.bit (BitVec.ofBool s.producerEmpty)], streamP := s.streamP.tail } := by
  have hview : s.emptyOn s.port = s.producerEmpty := by rw [hp, State.emptyOn]
  show execQIsEmpty s = _
  rw [execQIsEmpty, accept_of_allowed hr (by simp [hp]), complete_eq, hview, State.respond_of_p hp,
    State.advance_of_p (s := s.respondP _) hp]
  rfl

theorem exec_qIsEmpty_of_m (hp : s.port = .m) :
    exec .qIsEmpty s = .next
      { s with respM := s.respM ++ [.bit (BitVec.ofBool s.consumerEmpty)], streamM := s.streamM.tail } := by
  rw [exec_of_completesOnM hr hp ⟨by decide, rfl, by simp⟩, State.advance_of_m (s := s.effectM .qIsEmpty) hp]
  rfl

end IsEmpty

/-- The bit of a comparison of pointers (R123). -/
theorem ofBool_beq (a b : Nat) : BitVec.ofBool (a == b) = if a = b then 1 else 0 := by
  by_cases h : a = b <;> simp [h, beq_eq_false_iff_ne.mpr]

/-! ### The sync agents -/

theorem agentStep_syncW {s : State} (hr : s.Running) : agentStep .syncW s = .next (syncWriteStep s) := by
  simp [agentStep, hr.1, hr.2, State.faulted]

theorem agentStep_syncR {s : State} (hr : s.Running) : agentStep .syncR s = .next (syncReadStep s) := by
  simp [agentStep, hr.1, hr.2, State.faulted]

theorem syncWriteStep_of_gray {s : State} (hg : s.cfg.syncMode = .gray) : syncWriteStep s = publishWrite s := if_pos hg

theorem syncReadStep_of_gray {s : State} (hg : s.cfg.syncMode = .gray) : syncReadStep s = publishRead s := if_pos hg

theorem syncWriteStep_of_direct {s : State} (hd : s.cfg.syncMode = .direct) : syncWriteStep s = s :=
  if_neg (by simp [hd])

theorem syncReadStep_of_direct {s : State} (hd : s.cfg.syncMode = .direct) : syncReadStep s = s :=
  if_neg (by simp [hd])

/-! ### Obligations -/

/-- Settles O25: the producer's test decides between the two effects of `Q_APPEND`. -/
theorem qAppendStoresOrDrops : Obligations.QAppendStoresOrDrops := by
  unfold Obligations.QAppendStoresOrDrops
  refine ⟨fun d => decode_encode (.qAppend d), fun d s hr hp => ⟨fun h => ?_, fun h => ?_⟩,
    commandExceptions 0x0⟩
  · have hf : s.producerFull = true := beq_iff_eq.mpr h
    exact exec_qAppend_of_full hr hp d hf
  · have hf : s.producerFull = false := beq_eq_false_iff_ne.mpr h
    rw [exec_qAppend_of_room hr hp d hf, State.appended_eq]
    rfl

/-- Settles O26: the consumer's test decides between the hold and the effect of `Q_POP`. -/
theorem qPopRespondsOrHolds : Obligations.QPopRespondsOrHolds := by
  unfold Obligations.QPopRespondsOrHolds
  refine ⟨decode_encode .qPop, fun s hr hp => ⟨fun h => ?_, fun h v hv => ?_⟩, commandExceptions 0x1⟩
  · have he : s.consumerEmpty = true := beq_iff_eq.mpr h
    exact exec_qPop_of_empty hr hp he
  · have he : s.consumerEmpty = false := beq_eq_false_iff_ne.mpr h
    rw [exec_qPop_of_byte hr hp he hv, State.popped_eq]
    rfl

/-- Settles O27: each port compares its own pointer with its own view. -/
theorem qIsEmptyAnswersFromOwnView : Obligations.QIsEmptyAnswersFromOwnView := by
  unfold Obligations.QIsEmptyAnswersFromOwnView
  refine ⟨decode_encode .qIsEmpty, fun s hr => ⟨fun hp => ?_, fun hp => ?_⟩, commandExceptions 0x2⟩
  · rw [exec_qIsEmpty_of_p hr hp, State.producerEmpty, ofBool_beq]
    rfl
  · rw [exec_qIsEmpty_of_m hr hp, State.consumerEmpty, ofBool_beq]
    rfl

/-- Settles O28: in gray mode the agents publish the pointers, and in direct mode they are not enabled. -/
theorem syncAgentsCopyPointers : Obligations.SyncAgentsCopyPointers := by
  unfold Obligations.SyncAgentsCopyPointers
  refine fun s hr => ⟨fun hg => ⟨?_, ?_⟩, fun hd => ⟨?_, ?_⟩⟩
  · rw [agentStep_syncW hr, syncWriteStep_of_gray hg]
    rfl
  · rw [agentStep_syncR hr, syncReadStep_of_gray hg]
    rfl
  · rw [agentStep_syncW hr, syncWriteStep_of_direct hd]
  · rw [agentStep_syncR hr, syncReadStep_of_direct hd]

end Sys2Proof.Machine
end

section
/-! SUPPORT. What a command leaves unchanged (10_state.md R24, R39, 60_exceptions.md R226), with the obligations on the
queue's and the checksum's commands. -/

namespace Sys2Proof.Machine

/-- What every command leaves alone but for its stream's head and a fault entry: the parameters and the model's own
fields, the streams of the other ports, the latch. -/
structure State.CommandFrame (s t : State) : Prop where
  setting : s.SameSetting t
  streams : s.StreamsMoved t
  faults : s.FaultsKeptOrEntered t

theorem State.CommandFrame.refl (s : State) : s.CommandFrame s :=
  ⟨⟨rfl, rfl, rfl, rfl⟩, ⟨fun _ _ => rfl, .inl rfl⟩, .inl ⟨rfl, rfl, rfl⟩⟩

/-- A command that does not enter its rule writes at most the latch. -/
theorem Untouched.eq_latch {s t : State} (h : Untouched s t) : ∃ c q w, t = s.latch c q w := by
  obtain ⟨-, rfl⟩ | ⟨-, c, w, rfl⟩ := h
  · exact ⟨_, _, _, rfl⟩
  · exact ⟨_, _, _, rfl⟩

theorem Untouched.commandFrame {s t : State} (h : Untouched s t) : s.CommandFrame t := by
  obtain ⟨-, rfl⟩ | ⟨hf, c, w, rfl⟩ := h
  · exact .refl t
  · have hstr (q : Port) : (s.latch c.code (portCode s.port) w).stream q = s.stream q := by cases q <;> rfl
    exact ⟨⟨rfl, rfl, rfl, rfl⟩, ⟨fun q _ => hstr q, .inl (hstr s.port)⟩, .inr ⟨hf, rfl⟩⟩

/-- Completion moves the issuing port's stream past its head and keeps what the rule's effect keeps. -/
theorem State.SameControl.commandFrame_advance {s u : State} (h : s.SameControl u)
    (hq : u.faultPort = s.faultPort) (hw : u.faultWord = s.faultWord) : s.CommandFrame u.advance where
  setting := by simp [State.SameSetting, h.cfg, h.schedule, h.port, h.round]
  streams := by
    refine ⟨fun q hne => ?_, .inr ?_⟩
    · rw [State.stream_advance, h.port, if_neg hne, h.stream]
    · rw [State.stream_advance, h.port, if_pos rfl, h.stream]
  faults := .inl (by simp [h.faultCause, hq, hw])

theorem State.sameControl_setChecksum (s : State) (a b : Byte) : s.SameControl (s.setChecksum a b) := by
  constructor <;> rfl

theorem State.sameControl_appended (s : State) (d : Byte) : s.SameControl (s.appended d) := by
  rw [State.appended_eq]
  constructor <;> rfl

theorem State.sameControl_popped (s : State) : s.SameControl s.popped := by
  rw [State.popped_eq]
  constructor <;> rfl

/-! ### Obligations -/

/-- Settles O56: a fault entry, the drop and the store of a byte, one by one (`execQAppend_cases`). -/
theorem appendFrame : Obligations.AppendFrame := by
  unfold Obligations.AppendFrame
  intro d s t h
  obtain hu | ⟨-, -, ⟨-, rfl⟩ | ⟨hroom, rfl⟩⟩ := execQAppend_cases h
  · obtain ⟨hset, hstr, hflt⟩ := hu.commandFrame
    obtain ⟨c, q, w, rfl⟩ := hu.eq_latch
    simp [State.SameStorage, State.SameChecksum, State.SameWindow, hset, hstr, hflt]
  · obtain ⟨hset, hstr, hflt⟩ := (State.SameControl.refl s).commandFrame_advance rfl rfl
    simp [State.SameStorage, State.SameChecksum, State.SameWindow, hset, hstr, hflt]
  · obtain ⟨hset, hstr, hflt⟩ := (s.sameControl_appended d).commandFrame_advance
      (by rw [State.appended_eq]) (by rw [State.appended_eq])
    refine ⟨fun a ha => ?slots, fun hfull => ?full, ?_, ?_, fun hgray => ?_, ?_, ?_, ?_, hset, hstr, ?_, ?_, ?_,
      hflt⟩
    case slots =>
      rw [State.advance_qmem, publishWriteDirect_eq]
      exact memRead_memWrite_other ha d s.qmem
    case full => simp [hroom] at hfull
    all_goals simp [publishWriteDirect_eq, storeByte, State.SameChecksum, State.SameWindow, *]

/-- Settles O57: a fault entry, the hold and the pop of a byte, one by one (`execQPop_cases`). -/
theorem popFrame : Obligations.PopFrame := by
  unfold Obligations.PopFrame
  intro s t h
  obtain hu | ⟨-, hp, ⟨-, rfl⟩ | ⟨-, v, -, rfl⟩⟩ := execQPop_cases h
  · obtain ⟨hset, hstr, hflt⟩ := hu.commandFrame
    obtain ⟨c, q, w, rfl⟩ := hu.eq_latch
    simp [State.SameStorage, State.SameChecksum, State.SameWindow, hset, hstr, hflt]
  · obtain ⟨hset, hstr, hflt⟩ := State.CommandFrame.refl t
    simp [State.SameStorage, State.SameChecksum, State.SameWindow, hset, hstr, hflt]
  · have hp' : s.popped.port = .m := by rw [State.popped_eq, hp]
    have hctl := s.sameControl_popped.trans (s.popped.sameControl_respond (.byte v))
    obtain ⟨hset, hstr, hflt⟩ := hctl.commandFrame_advance
      (by rw [State.respond_faultPort, State.popped_eq]) (by rw [State.respond_faultWord, State.popped_eq])
    refine ⟨fun a => ?_, ?_, ?_, fun hgray => ?_, ?_, ?_, ?_, hset, hstr, ?_, ?resp, hflt⟩
    case resp =>
      show (s.popped.respond (.byte v)).advance.respP = s.respP
      rw [State.advance_respP, State.respond_of_m hp', State.respondM_respP, State.popped_eq]
    all_goals simp [publishReadDirect_eq, State.SameChecksum, State.SameWindow, *]

/-- What the commands that only read the queue and those of the checksum can do: a fault entry, one response, or a write
of the pair. -/
theorem readAndChecksum_cases {i : Instr} {s t : State}
    (hi : i = .qIsEmpty ∨ i = .ckRead ∨ i = .ckReset ∨ ∃ d, i = .ckUpdate d) (h : exec i s = .next t) :
    Untouched s t ∨
      (∃ v, (i = .qIsEmpty ∨ i = .ckRead ∧ s.port = .m) ∧ t = (s.respond v).advance) ∨
      (∃ a b, (i = .ckReset ∨ ∃ d, i = .ckUpdate d) ∧ t = (s.setChecksum a b).advance) := by
  obtain rfl | rfl | rfl | ⟨d, rfl⟩ := hi
  · obtain hu | ⟨-, -, ht⟩ := execQIsEmpty_cases h
    · exact .inl hu
    · exact .inr (.inl ⟨_, .inl rfl, ht⟩)
  · obtain hu | ⟨-, hp, ht⟩ := execCkRead_cases h
    · exact .inl hu
    · exact .inr (.inl ⟨_, .inr ⟨rfl, hp⟩, State.respond_of_m hp _ ▸ ht⟩)
  · obtain hu | ⟨-, -, ht⟩ := execCkReset_cases h
    · exact .inl hu
    · exact .inr (.inr ⟨_, _, .inl rfl, ht⟩)
  · obtain hu | ⟨-, -, ht⟩ := execCkUpdate_cases h
    · exact .inl hu
    · exact .inr (.inr ⟨_, _, .inr ⟨d, rfl⟩, ht⟩)

/-- Settles O58: a fault entry, the one response, and the write of the pair, one by one (`readAndChecksum_cases`). -/
theorem readAndChecksumFrame : Obligations.ReadAndChecksumFrame := by
  unfold Obligations.ReadAndChecksumFrame
  intro i s t hi h
  obtain hu | ⟨v, hv, rfl⟩ | ⟨a, b, hab, rfl⟩ := readAndChecksum_cases hi h
  · obtain ⟨hset, hstr, hflt⟩ := hu.commandFrame
    obtain ⟨c, q, w, rfl⟩ := hu.eq_latch
    simp [State.SameStorage, State.SamePointers, State.SameChecksum, State.SameWindow, hset, hstr, hflt]
  · obtain ⟨hset, hstr, hflt⟩ := (s.sameControl_respond v).commandFrame_advance (by simp) (by simp)
    have hother : i ≠ .qIsEmpty → i = .ckRead ∧ s.respond v = s.respondM v :=
      fun hne => ⟨(hv.resolve_left hne).1, State.respond_of_m (hv.resolve_left hne).2 v⟩
    simp +contextual [State.SameStorage, State.SamePointers, State.SameChecksum, State.SameWindow, hset, hstr, hflt,
      hother]
  · obtain ⟨hset, hstr, hflt⟩ := (s.sameControl_setChecksum a b).commandFrame_advance rfl rfl
    have hno : ¬ (i = .qIsEmpty ∨ i = .ckRead) := by
      obtain rfl | ⟨d, rfl⟩ := hab <;> simp
    simp [State.SameStorage, State.SamePointers, State.SameWindow, hset, hstr, hflt, hno]

end Sys2Proof.Machine
end

section
/-! SUPPORT. The pointers and the views on their circle (10_state.md R26–R29, R42, R43), the inverse of the Gray code
(40_byte_queue.md R124), and the queue's invariant under the store and the pop of a byte and under publication. -/

namespace Sys2Proof.Machine

/-! ### Differences on the circle -/

section Ring

variable {m a b : Nat} (ha : a < m) (hb : b < m)
include ha

theorem ringSub_self : ringSub m a a = 0 := by
  rw [ringSub_of_lt ha ha]
  simp

include hb

theorem ringSub_ringNext_left (h : ringSub m a b + 1 < m) : ringSub m (ringNext m a) b = ringSub m a b + 1 := by
  rw [ringSub_of_lt ha hb] at h ⊢
  rw [ringSub_of_lt (ringNext_lt (by omega)) hb, ringNext_of_lt ha]
  grind

theorem ringSub_ringNext_right (h : ringSub m a b ≠ 0) : ringSub m a (ringNext m b) + 1 = ringSub m a b := by
  rw [ringSub_of_lt ha hb] at h ⊢
  rw [ringSub_of_lt ha (ringNext_lt (by omega)), ringNext_of_lt hb]
  grind

/-- The difference leads from the one value to the other. -/
theorem add_ringSub_mod : (b + ringSub m a b) % m = a := by
  rw [ringSub_of_lt ha hb]
  split
  · rw [Nat.add_sub_cancel' ‹_›, Nat.mod_eq_of_lt ha]
  · rw [show b + (a + m - b) = a + m by omega, Nat.add_mod_right, Nat.mod_eq_of_lt ha]

end Ring

/-- The pointers `w` and `r` and the views `wv` and `rv` of them on the circle of a queue of `n` slots: the occupancy is
at most `n` (R42), the consumer sees part of it, and the producer sees it and slots already read (R43). -/
structure ViewsLag (n w r wv rv : Nat) : Prop where
  w_lt : w < 2 * n
  r_lt : r < 2 * n
  wv_lt : wv < 2 * n
  rv_lt : rv < 2 * n
  between : ringSub (2 * n) wv r + ringSub (2 * n) w wv = ringSub (2 * n) w r
  behind : ringSub (2 * n) w rv = ringSub (2 * n) w r + ringSub (2 * n) r rv
  producer_le : ringSub (2 * n) w rv ≤ n

namespace ViewsLag

variable {n w r wv rv : Nat} (h : ViewsLag n w r wv rv)
include h

/-- An append where the producer sees room. -/
theorem append (hroom : ringSub (2 * n) w rv ≠ n) : ViewsLag n (ringNext (2 * n) w) r wv rv := by
  obtain ⟨hw, hr, hwv, hrv, hbet, hbeh, hle⟩ := h
  have hocc := ringSub_ringNext_left hw hr (by omega)
  have hseen := ringSub_ringNext_left hw hwv (by omega)
  have hprod := ringSub_ringNext_left hw hrv (by omega)
  exact ⟨ringNext_lt (by omega), hr, hwv, hrv, by omega, by omega, by omega⟩

/-- A pop where the consumer sees a byte. -/
theorem pop (hbyte : ringSub (2 * n) wv r ≠ 0) : ViewsLag n w (ringNext (2 * n) r) wv rv := by
  obtain ⟨hw, hr, hwv, hrv, hbet, hbeh, hle⟩ := h
  have hocc := ringSub_ringNext_right hw hr (by omega)
  have hseen := ringSub_ringNext_right hwv hr hbyte
  have hread := ringSub_ringNext_left hr hrv (by omega)
  exact ⟨hw, ringNext_lt (by omega), hwv, hrv, by omega, by omega, hle⟩

theorem publishWrite : ViewsLag n w r w rv := by
  obtain ⟨hw, hr, -, hrv, -, hbeh, hle⟩ := h
  exact ⟨hw, hr, hw, hrv, by rw [ringSub_self hw]; rfl, hbeh, hle⟩

theorem publishRead : ViewsLag n w r wv r := by
  obtain ⟨hw, hr, hwv, -, hbet, hbeh, hle⟩ := h
  exact ⟨hw, hr, hwv, hr, hbet, by rw [ringSub_self hr]; rfl, by omega⟩

end ViewsLag

/-! ### The inverse of the Gray code -/

theorem gray_shiftRight (b : Nat) : gray b >>> 1 = gray (b >>> 1) := Nat.shiftRight_xor_distrib

/-- `bin` undoes `gray` on the values of its width (R124). -/
theorem bin_gray {n b : Nat} (h : b < 2 ^ n) : bin n (gray b) = b := by
  induction n generalizing b with
  | zero =>
    obtain rfl : b = 0 := by omega
    rfl
  | succ n ih =>
    have hupper : bin n (gray b >>> 1) = b / 2 := by
      rw [gray_shiftRight, Nat.shiftRight_one, ih (by omega)]
    have hlow : (b / 2 % 2) ^^^ (gray b % 2) = b % 2 := by
      have hbit : gray b % 2 = b % 2 ^^^ b / 2 % 2 := by
        rw [gray, Nat.shiftRight_one, Nat.xor_mod_two_pow (n := 1)]
      rw [hbit, Nat.xor_comm (b % 2), ← Nat.xor_assoc, Nat.xor_self, Nat.zero_xor]
    rw [bin, hupper, hlow]
    omega

/-- A pointer read through its published code. -/
theorem bin_gray_pointer {c : Config} {p : Nat} (h : p < c.ringSize) : bin (c.qaw + 1) (gray p) = p :=
  bin_gray (Config_ringSize_eq c ▸ h)

theorem gray_lt_ringSize {c : Config} {p : Nat} (h : p < c.ringSize) : gray p < c.ringSize := by
  rw [Config_ringSize_eq] at h ⊢
  exact gray_lt h

theorem State.readView_lt (s : State) : s.readView < s.cfg.ringSize :=
  Config_ringSize_eq s.cfg ▸ bin_lt _ _

/-! ### The invariant's parts -/

/-- The pointers and the views lie on the circle as R42 and R43 say. -/
abbrev State.Lag (s : State) : Prop := ViewsLag s.cfg.capacity s.wptr s.rptr s.writeView s.readView

theorem State.QueueInv.lag {s : State} (h : s.QueueInv) : s.Lag where
  w_lt := h.wptr_lt
  r_lt := h.rptr_lt
  wv_lt := s.writeView_lt
  rv_lt := s.readView_lt
  between := h.writeView_between
  behind := h.readView_behind
  producer_le := h.producerOccupancy_le

/-- The queue's elements of two states are the same. -/
structure State.SameQueue (s t : State) : Prop where
  cfg : t.cfg = s.cfg
  qmem : t.qmem = s.qmem
  wptr : t.wptr = s.wptr
  rptr : t.rptr = s.rptr
  wqSync : t.wqSync = s.wqSync
  rqSync : t.rqSync = s.rqSync

theorem State.SameQueue.refl (s : State) : s.SameQueue s := ⟨rfl, rfl, rfl, rfl, rfl, rfl⟩

namespace State.SameQueue

variable {s t : State} (h : s.SameQueue t)
include h

theorem occupancy : t.occupancy = s.occupancy := by
  simp [State.occupancy, h.cfg, h.wptr, h.rptr]

theorem writeView : t.writeView = s.writeView := by
  simp [State.writeView, h.cfg, h.wqSync]

theorem readView : t.readView = s.readView := by
  simp [State.readView, h.cfg, h.rqSync]

theorem consumerOccupancy : t.consumerOccupancy = s.consumerOccupancy := by
  simp [State.consumerOccupancy, h.cfg, h.writeView, h.rptr]

theorem contents : t.contents = s.contents := by
  simp [State.contents, State.slotOf, h.occupancy, h.cfg, h.qmem, h.rptr]

end State.SameQueue

/-- The invariant of the queue put together from its parts. -/
theorem State.Lag.queueInv {s : State} (h : s.Lag) (hwf : Memory.wf s.qmem)
    (hin : ∀ c ∈ s.qmem, c.1 < s.cfg.capacity)
    (hwq : s.wqSync < s.cfg.ringSize) (hrq : s.rqSync < s.cfg.ringSize)
    (hdir : s.cfg.syncMode = .direct → s.wqSync = gray s.wptr ∧ s.rqSync = gray s.rptr)
    (hunread : ∀ k < s.occupancy, (memRead s.qmem (s.slotOf (s.rptr + k))).isSome = true) : s.QueueInv where
  stored := hwf
  inside := hin
  wptr_lt := h.w_lt
  rptr_lt := h.r_lt
  wqSync_lt := hwq
  rqSync_lt := hrq
  occupancy_le := by
    have hbeh := h.behind
    have hle := h.producer_le
    show ringSub (2 * s.cfg.capacity) s.wptr s.rptr ≤ s.cfg.capacity
    omega
  writeView_between := h.between
  readView_behind := h.behind
  producerOccupancy_le := h.producer_le
  direct_exact := hdir
  unread_written := hunread

theorem State.QueueInv.congr {s t : State} (h : s.QueueInv) (hs : s.SameQueue t) : t.QueueInv := by
  have hlag : t.Lag := by
    rw [State.Lag, hs.cfg, hs.wptr, hs.rptr, hs.writeView, hs.readView]
    exact h.lag
  refine hlag.queueInv ?_ ?_ ?_ ?_ ?_ ?_
  · exact hs.qmem ▸ h.stored
  · exact hs.qmem ▸ hs.cfg ▸ h.inside
  · exact hs.wqSync ▸ hs.cfg ▸ h.wqSync_lt
  · exact hs.rqSync ▸ hs.cfg ▸ h.rqSync_lt
  · rw [hs.cfg, hs.wqSync, hs.rqSync, hs.wptr, hs.rptr]
    exact h.direct_exact
  · simpa only [State.slotOf, hs.occupancy, hs.qmem, hs.cfg, hs.rptr] using h.unread_written

/-! ### Slots -/

/-- The pointers go round the slots twice on their circle (R26, R27). -/
theorem mod_ringSize_mod_capacity (c : Config) (p : Nat) : p % c.ringSize % c.capacity = p % c.capacity :=
  Nat.mod_mod_of_dvd _ ⟨2, Nat.mul_comm _ _⟩

/-- Slots less than the capacity apart are not the same. -/
theorem State.slotOf_add_ne {s : State} {k j : Nat} (p : Nat) (hkj : k < j) (hj : j < s.cfg.capacity) :
    s.slotOf (p + k) ≠ s.slotOf (p + j) := by
  intro h
  have hmod : (p + j - (p + k)) % s.cfg.capacity = 0 := Nat.sub_mod_eq_zero_of_mod_eq h.symm
  rw [Nat.add_sub_add_left, Nat.mod_eq_of_lt (by omega)] at hmod
  omega

/-- The slot past the unread bytes is the one that `WPTR` names. -/
theorem State.QueueInv.slotOf_end {s : State} (h : s.QueueInv) : s.slotOf (s.rptr + s.occupancy) = s.slotOf s.wptr := by
  have hend : (s.rptr + s.occupancy) % s.cfg.ringSize = s.wptr := add_ringSub_mod h.wptr_lt h.rptr_lt
  show (s.rptr + s.occupancy) % s.cfg.capacity = s.wptr % s.cfg.capacity
  rw [← mod_ringSize_mod_capacity, hend]

/-- Past the slot of the oldest byte the slots are those from the next pointer on. -/
theorem State.slotOf_ringNext_add (s : State) (p k : Nat) :
    s.slotOf (ringNext s.cfg.ringSize p + k) = s.slotOf (p + (k + 1)) := by
  show (ringNext s.cfg.ringSize p + k) % s.cfg.capacity = (p + (k + 1)) % s.cfg.capacity
  rw [Nat.add_mod, ringNext, mod_ringSize_mod_capacity, ← Nat.add_mod, Nat.add_assoc, Nat.add_comm 1]

/-! ### The store of a byte -/

@[simp] theorem State.appended_slotOf (s : State) (d : Byte) (p : Nat) : (s.appended d).slotOf p = s.slotOf p := by
  simp [State.slotOf]

@[simp] theorem State.appended_readView (s : State) (d : Byte) : (s.appended d).readView = s.readView := by
  simp [State.readView]

/-- The consumer sees the new pointer at once in direct mode (R121), and what it saw before in gray mode. -/
theorem State.appended_writeView (s : State) (d : Byte) :
    (s.appended d).writeView =
      if s.cfg.syncMode = .direct then ringNext s.cfg.ringSize s.wptr else s.writeView := by
  rw [State.writeView, State.appended_wqSync, State.appended_cfg]
  split
  · exact bin_gray_pointer (ringNext_lt (Config_ringSize_pos _))
  · rfl

theorem State.producerFull_eq_false_iff {s : State} :
    s.producerFull = false ↔ s.producerOccupancy ≠ s.cfg.capacity := beq_eq_false_iff_ne

section Append

variable {s : State} (h : s.QueueInv) (hroom : s.producerFull = false) (d : Byte)
include h hroom

/-- Where the producer sees room there is room. -/
theorem State.QueueInv.occupancy_lt : s.occupancy < s.cfg.capacity := by
  have hne := State.producerFull_eq_false_iff.mp hroom
  have hle := h.producerOccupancy_le
  have hbeh := h.readView_behind
  omega

theorem State.QueueInv.appended_occupancy : (s.appended d).occupancy = s.occupancy + 1 := by
  have hlt := h.occupancy_lt hroom
  rw [State.occupancy, State.appended_cfg, State.appended_wptr, State.appended_rptr]
  exact ringSub_ringNext_left h.wptr_lt h.rptr_lt (show s.occupancy + 1 < 2 * s.cfg.capacity by omega)

/-- The slot of an unread byte is not the one that is written (R130). -/
theorem State.QueueInv.slotOf_unread_ne {k : Nat} (hk : k < s.occupancy) :
    s.slotOf (s.rptr + k) ≠ s.slotOf s.wptr := by
  rw [← h.slotOf_end]
  exact State.slotOf_add_ne s.rptr hk (h.occupancy_lt hroom)

/-- What the slots of the unread bytes hold after the store: what they held, and the new byte last. -/
theorem State.QueueInv.memRead_appended {k : Nat} (hk : k ≤ s.occupancy) :
    memRead (s.appended d).qmem (s.slotOf (s.rptr + k)) =
      if k = s.occupancy then some d else memRead s.qmem (s.slotOf (s.rptr + k)) := by
  rw [State.appended_qmem]
  split
  · next heq => rw [heq, h.slotOf_end, memRead_memWrite_same]
  · next hne => exact memRead_memWrite_other (h.slotOf_unread_ne hroom (by omega)) d s.qmem

theorem State.QueueInv.contents_appended : (s.appended d).contents = s.contents ++ [d] := by
  have hold : ∀ k ∈ List.range s.occupancy,
      (memRead (s.appended d).qmem (s.slotOf (s.rptr + k))).getD 0 =
        (memRead s.qmem (s.slotOf (s.rptr + k))).getD 0 := by
    intro k hk
    have hk : k < s.occupancy := List.mem_range.mp hk
    rw [h.memRead_appended hroom d (by omega), if_neg (by omega)]
  have hnew : memRead (s.appended d).qmem (s.slotOf (s.rptr + s.occupancy)) = some d := by
    rw [h.memRead_appended hroom d (Nat.le_refl _), if_pos rfl]
  simp only [State.contents, h.appended_occupancy hroom, State.appended_slotOf, State.appended_rptr, List.range_succ,
    List.map_append, List.map_congr_left hold, List.map_singleton, hnew, Option.getD_some]

theorem State.QueueInv.lag_appended : (s.appended d).Lag := by
  have hlag := h.lag.append (State.producerFull_eq_false_iff.mp hroom)
  rw [State.Lag, State.appended_cfg, State.appended_wptr, State.appended_rptr, State.appended_writeView,
    State.appended_readView]
  split
  · exact hlag.publishWrite
  · exact hlag

theorem State.QueueInv.appended : (s.appended d).QueueInv := by
  refine (h.lag_appended hroom d).queueInv ?_ ?_ ?_ ?_ ?_ ?_
  · rw [State.appended_qmem]
    exact memWrite_wf h.stored _ _
  · rw [State.appended_qmem, State.appended_cfg]
    intro c hc
    obtain rfl | hc := mem_memWrite hc
    · exact Nat.mod_lt _ (Config_capacity_pos _)
    · exact h.inside c hc
  · rw [State.appended_wqSync, State.appended_cfg]
    split
    · exact gray_lt_ringSize (ringNext_lt (Config_ringSize_pos _))
    · exact h.wqSync_lt
  · simpa using h.rqSync_lt
  · simpa +contextual using fun hd => (h.direct_exact hd).2
  · rw [h.appended_occupancy hroom, State.appended_rptr]
    intro k hk
    rw [State.appended_slotOf, h.memRead_appended hroom d (by omega)]
    split
    · rfl
    · exact h.unread_written k (by omega)

end Append

/-! ### The pop of a byte -/

@[simp] theorem State.popped_writeView (s : State) : s.popped.writeView = s.writeView := by
  simp [State.writeView]

/-- The producer sees the new pointer at once in direct mode (R121), and what it saw before in gray mode. -/
theorem State.popped_readView (s : State) :
    s.popped.readView = if s.cfg.syncMode = .direct then ringNext s.cfg.ringSize s.rptr else s.readView := by
  rw [State.readView, State.popped_rqSync, State.popped_cfg]
  split
  · exact bin_gray_pointer (ringNext_lt (Config_ringSize_pos _))
  · rfl

/-- The slots of the unread bytes after a pop are those after the oldest byte's. -/
theorem State.slotOf_popped (s : State) (k : Nat) :
    s.popped.slotOf (s.popped.rptr + k) = s.slotOf (s.rptr + (k + 1)) := by
  rw [State.popped_rptr, ← s.slotOf_ringNext_add, State.slotOf, State.slotOf, State.popped_cfg]

/-- The consumer sees a byte where its view is not its pointer (R128). -/
theorem State.QueueInv.consumerEmpty_eq_false_iff {s : State} (h : s.QueueInv) :
    s.consumerEmpty = false ↔ s.consumerOccupancy ≠ 0 := by
  rw [State.consumerEmpty, beq_eq_false_iff_ne]
  constructor
  · intro hne
    exact Nat.pos_iff_ne_zero.mp (ringSub_pos s.writeView_lt h.rptr_lt hne.symm)
  · intro hocc heq
    rw [State.consumerOccupancy, ← heq, ringSub_self h.rptr_lt] at hocc
    exact hocc rfl

section Pop

variable {s : State} (h : s.QueueInv) (hbyte : s.consumerEmpty = false)
include h hbyte

theorem State.QueueInv.popped_occupancy : s.popped.occupancy + 1 = s.occupancy := by
  have hseen := h.consumerEmpty_eq_false_iff.mp hbyte
  have hbet := h.writeView_between
  rw [State.occupancy, State.popped_cfg, State.popped_wptr, State.popped_rptr]
  exact ringSub_ringNext_right h.wptr_lt h.rptr_lt (show s.occupancy ≠ 0 by omega)

theorem State.QueueInv.contents_popped {v : Byte} (hv : memRead s.qmem (s.slotOf s.rptr) = some v) :
    s.contents = v :: s.popped.contents := by
  simp only [State.contents, State.slotOf_popped, State.popped_qmem, ← h.popped_occupancy hbyte,
    List.range_succ_eq_map, List.map_cons, List.map_map, Nat.add_zero, hv]
  rfl

theorem State.QueueInv.lag_popped : s.popped.Lag := by
  have hlag := h.lag.pop (h.consumerEmpty_eq_false_iff.mp hbyte)
  rw [State.Lag, State.popped_cfg, State.popped_wptr, State.popped_rptr, State.popped_writeView, State.popped_readView]
  split
  · exact hlag.publishRead
  · exact hlag

theorem State.QueueInv.popped : s.popped.QueueInv := by
  refine (h.lag_popped hbyte).queueInv ?_ ?_ ?_ ?_ ?_ ?_
  · simpa using h.stored
  · simpa using h.inside
  · simpa using h.wqSync_lt
  · rw [State.popped_rqSync, State.popped_cfg]
    split
    · exact gray_lt_ringSize (ringNext_lt (Config_ringSize_pos _))
    · exact h.rqSync_lt
  · simpa +contextual using fun hd => (h.direct_exact hd).1
  · intro k hk
    have hocc := h.popped_occupancy hbyte
    rw [State.slotOf_popped, State.popped_qmem]
    exact h.unread_written (k + 1) (by omega)

end Pop

/-! ### Publication -/

theorem State.QueueInv.publishWrite {s : State} (h : s.QueueInv) : (publishWrite s).QueueInv := by
  have hview : (Machine.publishWrite s).writeView = s.wptr := bin_gray_pointer h.wptr_lt
  have hlag : (Machine.publishWrite s).Lag := by
    rw [State.Lag, hview]
    exact h.lag.publishWrite
  exact hlag.queueInv h.stored h.inside (gray_lt_ringSize h.wptr_lt) h.rqSync_lt
    (fun hd => ⟨rfl, (h.direct_exact hd).2⟩) h.unread_written

theorem State.QueueInv.publishRead {s : State} (h : s.QueueInv) : (publishRead s).QueueInv := by
  have hview : (Machine.publishRead s).readView = s.rptr := bin_gray_pointer h.rptr_lt
  have hlag : (Machine.publishRead s).Lag := by
    rw [State.Lag, hview]
    exact h.lag.publishRead
  exact hlag.queueInv h.stored h.inside h.wqSync_lt (gray_lt_ringSize h.rptr_lt)
    (fun hd => ⟨(h.direct_exact hd).1, rfl⟩) h.unread_written

end Sys2Proof.Machine
end

section
/-! SUPPORT. What each agent's step does to the queue, said once (`QueueStep`), and the order of the bytes over a run
(40_byte_queue.md R129), with the obligation on it. -/

namespace Sys2Proof.Machine

/-! ### Commands that leave the queue alone -/

/-- The queue's elements are as before, and the responses added for port M, if any, are no bytes popped. -/
structure KeepsQueue (s t : State) : Prop where
  same : s.SameQueue t
  responses : ∃ rs, t.respM = s.respM ++ rs ∧ poppedBytes rs = [] ∧ (s.port ≠ .m → rs = [])

/-- Nothing is responded to port M. -/
theorem KeepsQueue.silent {s t : State} (h : s.SameQueue t) (hm : t.respM = s.respM) : KeepsQueue s t :=
  ⟨h, [], by simp [hm], rfl, fun _ => rfl⟩

theorem KeepsQueue.advance {s u : State} (h : KeepsQueue s u) : KeepsQueue s u.advance := by
  obtain ⟨⟨hcfg, hmem, hw, hr, hwq, hrq⟩, hresp⟩ := h
  exact ⟨⟨by simpa, by simpa, by simpa, by simpa, by simpa, by simpa⟩, by simpa using hresp⟩

/-- A command that completes and whose effect is elsewhere. -/
theorem KeepsQueue.completed {s u t : State} (ht : t = u.advance) (h : s.SameQueue u) (hm : u.respM = s.respM) :
    KeepsQueue s t := ht ▸ (KeepsQueue.silent h hm).advance

theorem Untouched.keepsQueue {s t : State} (h : Untouched s t) : KeepsQueue s t := by
  obtain ⟨c, q, w, rfl⟩ := h.eq_latch
  exact .silent ⟨rfl, rfl, rfl, rfl, rfl, rfl⟩ rfl

theorem keepsQueue_respond (s : State) {v : Response} (hv : poppedBytes [v] = []) : KeepsQueue s (s.respond v) := by
  refine ⟨by constructor <;> simp, ?_⟩
  by_cases hm : s.port = .m
  · exact ⟨[v], by rw [State.respond_of_m hm, State.respondM_respM], hv, fun hne => absurd hm hne⟩
  · refine ⟨[], ?_, rfl, fun _ => rfl⟩
    unfold State.respond
    split <;> simp_all

/-- Only `Q_APPEND` and `Q_POP` touch the queue (R135). -/
theorem exec_keepsQueue {i : Instr} {s t : State} (h : exec i s = .next t) (ha : ∀ d, i ≠ .qAppend d)
    (hp : i ≠ .qPop) : KeepsQueue s t := by
  cases i with
  | qAppend d => exact absurd rfl (ha d)
  | qPop => exact absurd rfl hp
  | qIsEmpty =>
    exact (execQIsEmpty_cases h).elim (·.keepsQueue) fun ⟨_, _, ht⟩ => ht ▸ (keepsQueue_respond s rfl).advance
  | ckRead =>
    exact (execCkRead_cases h).elim (·.keepsQueue) fun ⟨_, hm, ht⟩ =>
      ht ▸ State.respond_of_m hm _ ▸ (keepsQueue_respond s rfl).advance
  | ckReset =>
    exact (execCkReset_cases h).elim (·.keepsQueue) fun ⟨_, _, ht⟩ => 
      .completed ht ⟨rfl, rfl, rfl, rfl, rfl, rfl⟩ rfl
  | ckUpdate d =>
    exact (execCkUpdate_cases h).elim (·.keepsQueue) fun ⟨_, _, ht⟩ => 
      .completed ht ⟨rfl, rfl, rfl, rfl, rfl, rfl⟩ rfl
  | tpSetDigit k m =>
    exact (execTpSetDigit_cases h).elim (·.keepsQueue) fun ⟨_, _, _, ht⟩ => 
      .completed ht ⟨rfl, rfl, rfl, rfl, rfl, rfl⟩ rfl
  | tpSetDigitBcd k v =>
    exact (execTpSetDigitBcd_cases h).elim (·.keepsQueue) fun ⟨_, _, _, _, ht⟩ => 
      .completed ht ⟨rfl, rfl, rfl, rfl, rfl, rfl⟩ rfl
  | tpClear =>
    exact (execTpClear_cases h).elim (·.keepsQueue) fun ⟨_, _, ht⟩ => 
      .completed ht ⟨rfl, rfl, rfl, rfl, rfl, rfl⟩ rfl
  | tpFlush =>
    exact (execTpFlush_cases h).elim (·.keepsQueue) fun ⟨_, _, ht⟩ => 
      .completed ht ⟨rfl, rfl, rfl, rfl, rfl, rfl⟩ rfl
  | tpInit =>
    exact (execTpInit_cases h).elim (·.keepsQueue) fun ⟨_, _, ht⟩ => 
      .completed ht ⟨rfl, rfl, rfl, rfl, rfl, rfl⟩ rfl
  | tpShowNoSignal v =>
    exact (execTpShowNoSignal_cases h).elim (·.keepsQueue) fun ⟨_, _, ht⟩ => 
      .completed ht ⟨rfl, rfl, rfl, rfl, rfl, rfl⟩ rfl
  | maSample r =>
    obtain hu | ⟨-, -, ht⟩ := execMaSample_cases h
    · exact hu.keepsQueue
    · rw [emitIntensity_eq, integrate_eq] at ht
      exact .completed ht ⟨rfl, rfl, rfl, rfl, rfl, rfl⟩ rfl
  | reservedD x => exact (execReservedD_cases h).keepsQueue
  | reservedE x => exact (execReservedE_cases h).keepsQueue
  | reservedF x => exact (execReservedF_cases h).keepsQueue

/-! ### Which bytes a step accepts -/

theorem acceptedBy_of_ne {a : Agent} (ha : a ≠ .port .p) (s : State) : acceptedBy a s = [] := by
  unfold acceptedBy
  split
  · exact absurd rfl ha
  · rfl

theorem acceptedBy_port_of_empty {s : State} {q : Port} (hw : (s.stream q).head = none) :
    acceptedBy (.port q) s = [] := by
  cases q with
  | p =>
    have hw : s.streamP.head = none := hw
    simp [acceptedBy, hw]
  | m => exact acceptedBy_of_ne (by simp) s
  | s => exact acceptedBy_of_ne (by simp) s

theorem acceptedBy_of_faulted {s : State} (hf : s.faultCause ≠ 0) (a : Agent) : acceptedBy a s = [] := by
  have hf : s.faulted = true := by simpa using hf
  unfold acceptedBy
  split
  · split <;> simp [hf]
  · rfl

/-- A word that is no `Q_APPEND`. -/
theorem acceptedBy_port_of_other {s : State} {q : Port} {w : Word} (hw : (s.stream q).head = some w)
    (hd : ∀ d, decode w ≠ .ok (.qAppend d)) : acceptedBy (.port q) s = [] := by
  cases q with
  | p =>
    have hw : s.streamP.head = some w := hw
    simp [acceptedBy, hw]
  | m => exact acceptedBy_of_ne (by simp) s
  | s => exact acceptedBy_of_ne (by simp) s

theorem acceptedBy_of_append {s : State} (hr : s.Running) {w : Word} {d : Byte} (hw : s.streamP.head = some w)
    (hd : decode w = .ok (.qAppend d)) : acceptedBy (.port .p) s = if s.producerFull then [] else [d] := by
  simp [acceptedBy, hw, hd, hr.2, State.faulted]

/-! ### The steps of the agents -/

/-- What an agent's step other than a reset may do to the queue, with the bytes it accepts and what it responds to
port M: nothing, a byte stored (R120), a byte popped (R122), or a pointer copied in gray mode (R125, R126). -/
inductive QueueStep (s t : State) : List Byte → List Response → Prop
  | kept {rs : List Response} : s.SameQueue t → poppedBytes rs = [] → QueueStep s t [] rs
  | stored (d : Byte) : s.producerFull = false → (s.appended d).SameQueue t → QueueStep s t [d] []
  | took (v : Byte) : s.consumerEmpty = false → memRead s.qmem (s.slotOf s.rptr) = some v → s.popped.SameQueue t →
      QueueStep s t [] [.byte v]
  | publishedWrite : s.cfg.syncMode = .gray → (publishWrite s).SameQueue t → QueueStep s t [] []
  | publishedRead : s.cfg.syncMode = .gray → (publishRead s).SameQueue t → QueueStep s t [] []

/-- The step of agent `a` from `s` to `t`, as far as the queue goes; only port M's agent adds to port M's responses. -/
def StepsQueue (a : Agent) (s t : State) : Prop :=
  ∃ rs, t.respM = s.respM ++ rs ∧ (a ≠ .port .m → rs = []) ∧ QueueStep s t (acceptedBy a s) rs

/-- A step that changes nothing and accepts nothing. -/
theorem StepsQueue.idle {a : Agent} {s : State} (ha : acceptedBy a s = []) : StepsQueue a s s :=
  ⟨[], by simp, fun _ => rfl, ha ▸ .kept (.refl s) rfl⟩

/-- A step of port `q` that accepts nothing and pops nothing. -/
theorem KeepsQueue.stepsQueue {s t : State} {q : Port} (h : KeepsQueue (s.setPort q) t)
    (ha : acceptedBy (.port q) s = []) : StepsQueue (.port q) s t := by
  obtain ⟨⟨hcfg, hmem, hw, hr, hwq, hrq⟩, rs, hresp, hpop, hport⟩ := h
  have hrs : Agent.port q ≠ .port .m → rs = [] := fun hne => hport fun hq => hne (congrArg Agent.port hq)
  exact ⟨rs, hresp, hrs, ha ▸ .kept ⟨hcfg, hmem, hw, hr, hwq, hrq⟩ hpop⟩

theorem State.setPort_appended (s : State) (q : Port) (d : Byte) :
    (s.setPort q).appended d = (s.appended d).setPort q := by
  rw [State.appended_eq, State.appended_eq]
  rfl

theorem State.setPort_popped (s : State) (q : Port) : (s.setPort q).popped = s.popped.setPort q := by
  rw [State.popped_eq, State.popped_eq]
  rfl

section Port

variable {s t : State} {q : Port} {w : Word} (hr : s.Running) (hw : (s.stream q).head = some w)
include hr hw

theorem qAppend_stepsQueue {d : Byte} (hd : decode w = .ok (.qAppend d))
    (h : exec (.qAppend d) (s.setPort q) = .next t) : StepsQueue (.port q) s t := by
  by_cases hq : q = .p
  · subst hq
    have hacc := acceptedBy_of_append hr hw hd
    cases hf : s.producerFull with
    | true =>
      rw [exec_qAppend_of_full (hr.setPort .p) rfl d hf] at h
      cases h
      refine KeepsQueue.stepsQueue ?_ (hacc.trans (if_pos hf))
      exact .silent ⟨rfl, rfl, rfl, rfl, rfl, rfl⟩ rfl
    | false =>
      rw [exec_qAppend_of_room (hr.setPort .p) rfl d hf, State.setPort_appended] at h
      cases h
      refine ⟨[], by simp [State.appended_eq], fun _ => rfl, ?_⟩
      rw [hacc, hf]
      exact .stored d hf ⟨rfl, rfl, rfl, rfl, rfl, rfl⟩
  · obtain hu | ⟨-, hp, -⟩ := execQAppend_cases h
    · exact hu.keepsQueue.stepsQueue (acceptedBy_of_ne (by simp [hq]) s)
    · exact absurd hp hq

omit hr in
theorem qPop_stepsQueue (hd : decode w = .ok .qPop) (h : exec .qPop (s.setPort q) = .next t) :
    StepsQueue (.port q) s t := by
  have hacc : acceptedBy (.port q) s = [] := acceptedBy_port_of_other hw (by simp [hd])
  obtain hu | ⟨-, hm, ⟨-, rfl⟩ | ⟨he, v, hv, rfl⟩⟩ := execQPop_cases h
  · exact hu.keepsQueue.stepsQueue hacc
  · exact (KeepsQueue.silent (.refl _) rfl).stepsQueue hacc
  · obtain rfl : q = .m := hm
    refine ⟨[.byte v], ?_, fun hne => absurd rfl hne, hacc ▸ .took v he hv ?_⟩
    all_goals rw [← State.popped, State.setPort_popped]
    · rw [State.respond_of_m rfl, State.advance_respM, State.respondM_respM, State.popped_eq]
      rfl
    · constructor <;> simp

/-- A word presented on a port of a running block. -/
theorem runWord_stepsQueue (h : runWord w (s.setPort q) = .next t) : StepsQueue (.port q) s t := by
  cases hd : decode w with
  | error e =>
    have hno : runWord w (s.setPort q) = rejectWord w (s.setPort q) := by rw [runWord, hd]
    exact (rejectWord_cases (hno ▸ h)).keepsQueue.stepsQueue (acceptedBy_port_of_other hw (by simp [hd]))
  | ok i =>
    have hi : exec i (s.setPort q) = .next t := by rwa [runWord, hd] at h
    by_cases ha : ∃ d, i = .qAppend d
    · obtain ⟨d, rfl⟩ := ha
      exact qAppend_stepsQueue hr hw hd hi
    · by_cases hp : i = .qPop
      · exact qPop_stepsQueue hw (hp ▸ hd) (hp ▸ hi)
      · have ha : ∀ d, i ≠ .qAppend d := fun d hid => ha ⟨d, hid⟩
        exact (exec_keepsQueue hi ha hp).stepsQueue (acceptedBy_port_of_other hw (by simp [hd, ha]))

end Port

/-- A faulted block answers every agent but the reset input with no change (R227). -/
theorem agentStep_of_faulted {a : Agent} {s : State} (hl : s.cfg.legal = true) (hf : s.faultCause ≠ 0)
    (ha : a ≠ .reset) : agentStep a s = .next s := by
  have hf : s.faulted = true := by simpa using hf
  cases a with
  | reset => exact absurd rfl ha
  | port q => simp [agentStep, hl, hf]
  | syncW => simp [agentStep, hl, hf]
  | syncR => simp [agentStep, hl, hf]

/-- Everything a step other than a reset can do to the queue and to port M's responses. -/
theorem agentStep_stepsQueue {a : Agent} {s t : State} (ha : a ≠ .reset) (h : agentStep a s = .next t) :
    StepsQueue a s t := by
  obtain ⟨hl, -⟩ := agentStep_cases h
  have idle (hacc : acceptedBy a s = []) (hst : agentStep a s = .next s) : StepsQueue a s t := by
    obtain rfl : s = t := by simpa [hst] using h
    exact .idle hacc
  by_cases hf : s.faultCause = 0
  · have hr : s.Running := ⟨hl, hf⟩
    cases a with
    | reset => exact absurd rfl ha
    | port q =>
      cases hw : (s.stream q).head with
      | none => exact idle (acceptedBy_port_of_empty hw) (agentStep_port_of_empty hr hw)
      | some w =>
        rw [agentStep_port_of_head hr hw] at h
        exact runWord_stepsQueue hr hw h
    | syncW =>
      have hacc : acceptedBy .syncW s = [] := acceptedBy_of_ne (by simp) s
      cases hm : s.cfg.syncMode with
      | direct => exact idle hacc (by rw [agentStep_syncW hr, syncWriteStep_of_direct hm])
      | gray =>
        rw [agentStep_syncW hr, syncWriteStep_of_gray hm] at h
        cases h
        exact ⟨[], by simp [publishWrite], fun _ => rfl, hacc ▸ .publishedWrite hm (.refl _)⟩
    | syncR =>
      have hacc : acceptedBy .syncR s = [] := acceptedBy_of_ne (by simp) s
      cases hm : s.cfg.syncMode with
      | direct => exact idle hacc (by rw [agentStep_syncR hr, syncReadStep_of_direct hm])
      | gray =>
        rw [agentStep_syncR hr, syncReadStep_of_gray hm] at h
        cases h
        exact ⟨[], by simp [publishRead], fun _ => rfl, hacc ▸ .publishedRead hm (.refl _)⟩
  · exact idle (acceptedBy_of_faulted hf a) (agentStep_of_faulted hl hf ha)

/-! ### The invariant and the order of the bytes -/

section Queue

variable {s t : State} {acc : List Byte} {rs : List Response} (h : s.QueueInv) (hs : QueueStep s t acc rs)
include h hs

/-- Every step but a reset keeps the queue's invariant (R42, R43, R131). -/
theorem QueueStep.queueInv : t.QueueInv := by
  cases hs with
  | kept hq => exact h.congr hq
  | stored d hroom hq => exact (h.appended hroom d).congr hq
  | took v he _ hq => exact (h.popped he).congr hq
  | publishedWrite _ hq => exact h.publishWrite.congr hq
  | publishedRead _ hq => exact h.publishRead.congr hq

/-- One step's part of R129: what is accepted joins the queue last, and what is popped leaves it first. -/
theorem QueueStep.fifo : s.contents ++ acc = poppedBytes rs ++ t.contents := by
  cases hs with
  | kept hq hrs => simp [hq.contents, hrs]
  | stored d hroom hq => simp [hq.contents, h.contents_appended hroom d, poppedBytes]
  | took v he hv hq => simp [hq.contents, h.contents_popped he hv, poppedBytes]
  | publishedWrite _ hq =>
    have hc : (publishWrite s).contents = s.contents := rfl
    simp [hq.contents, hc, poppedBytes]
  | publishedRead _ hq =>
    have hc : (publishRead s).contents = s.contents := rfl
    simp [hq.contents, hc, poppedBytes]

end Queue

/-! ### Runs -/

/-- A run that answers a next state begins with a step that does. -/
theorem runAgents_cons_next {a : Agent} {as : List Agent} {s t : State} (h : runAgents (a :: as) s = .next t) :
    ∃ u, agentStep a s = .next u ∧ runAgents as u = .next t := by
  rw [runAgents] at h
  split at h
  next u hu => exact ⟨u, hu, h⟩
  next => cases h
  next => cases h

theorem runAgents_cons {a : Agent} {s u : State} (h : agentStep a s = .next u) (as : List Agent) :
    runAgents (a :: as) s = runAgents as u := by
  rw [runAgents, h]

theorem acceptedOver_cons {a : Agent} {s u : State} (h : agentStep a s = .next u) (as : List Agent) :
    acceptedOver (a :: as) s = acceptedBy a s ++ acceptedOver as u := by
  rw [acceptedOver, h]

theorem poppedBytes_append (rs rs' : List Response) : poppedBytes (rs ++ rs') = poppedBytes rs ++ poppedBytes rs' :=
  List.filterMap_append

/-- The order of the bytes over a run, from every state of the queue's invariant. -/
theorem runAgents_fifo {as : List Agent} {s t : State} (h : s.QueueInv) (has : ∀ a ∈ as, a ≠ .reset)
    (hrun : runAgents as s = .next t) :
    ∃ rs, t.respM = s.respM ++ rs ∧ s.contents ++ acceptedOver as s = poppedBytes rs ++ t.contents := by
  induction as generalizing s with
  | nil =>
    cases hrun
    exact ⟨[], by simp, by simp [acceptedOver, poppedBytes]⟩
  | cons a as ih =>
    obtain ⟨ha, has⟩ := List.forall_mem_cons.mp has
    obtain ⟨u, hu, hrun⟩ := runAgents_cons_next hrun
    obtain ⟨rs, hresp, -, hstep⟩ := agentStep_stepsQueue ha hu
    obtain ⟨rs', hresp', hfifo⟩ := ih (hstep.queueInv h) has hrun
    refine ⟨rs ++ rs', by rw [hresp', hresp, List.append_assoc], ?_⟩
    calc s.contents ++ acceptedOver (a :: as) s
        = (s.contents ++ acceptedBy a s) ++ acceptedOver as u := by rw [acceptedOver_cons hu, List.append_assoc]
      _ = poppedBytes rs ++ (u.contents ++ acceptedOver as u) := by rw [hstep.fifo h, List.append_assoc]
      _ = poppedBytes (rs ++ rs') ++ t.contents := by rw [hfifo, poppedBytes_append, List.append_assoc]

/-! ### Obligation -/

/-- Settles O31: by induction on the run, with the queue's invariant; one step's part is `QueueStep.fifo`. -/
theorem runsKeepFifoOrder : Obligations.RunsKeepFifoOrder := by
  unfold Obligations.RunsKeepFifoOrder
  intro as s t h has hrun
  exact runAgents_fifo h.queue has hrun

end Sys2Proof.Machine
end

section
/-! SUPPORT. The views over a run from reset (10_state.md R43), and the completion of a pop at port M's head
(40_byte_queue.md R133, 92 D28), with the obligations on them. -/

namespace Sys2Proof.Machine

/-! ### The views over a run -/

section Views

variable {s t : State} {acc : List Byte} {rs : List Response} (h : s.QueueInv) (hs : QueueStep s t acc rs)
include h hs

/-- After a step the consumer's view is what it was, or the write pointer (R121, R125). -/
theorem QueueStep.writeView_eq : t.writeView = s.writeView ∨ t.writeView = t.wptr := by
  cases hs with
  | kept hq => exact .inl hq.writeView
  | stored d _ hq =>
    rw [hq.writeView, hq.wptr, State.appended_writeView, State.appended_wptr]
    split
    · exact .inr rfl
    · exact .inl rfl
  | took v _ _ hq => exact .inl (hq.writeView.trans s.popped_writeView)
  | publishedWrite _ hq =>
    rw [hq.writeView, hq.wptr]
    exact .inr (bin_gray_pointer h.wptr_lt)
  | publishedRead _ hq => exact .inl hq.writeView

/-- After a step the producer's view is what it was, or the read pointer (R121, R126). -/
theorem QueueStep.readView_eq : t.readView = s.readView ∨ t.readView = t.rptr := by
  cases hs with
  | kept hq => exact .inl hq.readView
  | stored d _ hq => exact .inl (hq.readView.trans (s.appended_readView d))
  | took v _ _ hq =>
    rw [hq.readView, hq.rptr, State.popped_readView, State.popped_rptr]
    split
    · exact .inr rfl
    · exact .inl rfl
  | publishedWrite _ hq => exact .inl hq.readView
  | publishedRead _ hq =>
    rw [hq.readView, hq.rptr]
    exact .inr (bin_gray_pointer h.rptr_lt)

end Views

/-- Where each step leaves a view or sets it to its pointer, the view after a run is that of the first state, or the
pointer's value after some earlier part of the run. -/
theorem view_held_earlier {view pointer : State → Nat}
    (hview : ∀ s t acc rs, s.QueueInv → QueueStep s t acc rs → view t = view s ∨ view t = pointer t)
    {as : List Agent} {s t : State} (h : s.QueueInv) (has : ∀ a ∈ as, a ≠ .reset)
    (hrun : runAgents as s = .next t) :
    view t = view s ∨ ∃ n u, runAgents (as.take n) s = .next u ∧ view t = pointer u := by
  induction as generalizing s with
  | nil =>
    cases hrun
    exact .inl rfl
  | cons a as ih =>
    obtain ⟨ha, has⟩ := List.forall_mem_cons.mp has
    obtain ⟨u, hu, hrun⟩ := runAgents_cons_next hrun
    obtain ⟨rs, -, -, hstep⟩ := agentStep_stepsQueue ha hu
    obtain hkept | ⟨n, x, hx, hheld⟩ := ih (hstep.queueInv h) has hrun
    · obtain hold | hset := hview s u _ _ h hstep
      · exact .inl (hkept.trans hold)
      · exact .inr ⟨1, u, runAgents_cons hu [], hkept.trans hset⟩
    · exact .inr ⟨n + 1, x, (runAgents_cons hu _).trans hx, hheld⟩

/-- Settles O34: each step leaves a view or sets it to its pointer, and right after reset both are 0. -/
theorem viewsHoldEarlierPointers : Obligations.ViewsHoldEarlierPointers := by
  unfold Obligations.ViewsHoldEarlierPointers
  intro c g as t _ has hrun
  have hsame : (State.resetWith c).SameQueue ((State.resetWith c).load g) := ⟨rfl, rfl, rfl, rfl, rfl, rfl⟩
  have hinv := (queueInv_resetWith c).congr hsame
  have hwrite : ((State.resetWith c).load g).writeView = 0 := bin_zero_code _
  have hread : ((State.resetWith c).load g).readView = 0 := bin_zero_code _
  constructor
  · obtain h | h := view_held_earlier (fun _ _ _ _ => QueueStep.writeView_eq) hinv has hrun
    · exact ⟨0, _, rfl, h.trans hwrite⟩
    · exact h
  · obtain h | h := view_held_earlier (fun _ _ _ _ => QueueStep.readView_eq) hinv has hrun
    · exact ⟨0, _, rfl, h.trans hread⟩
    · exact h

/-! ### A pop at port M's head -/

theorem State.length_contents (s : State) : s.contents.length = s.occupancy := by simp [State.contents]

section Pop

variable {s : State} (hr : s.Running) (hw : s.streamM.head = some 0x1000#16)
include hr hw

theorem agentStep_pop : agentStep (.port .m) s = exec .qPop (s.setPort .m) := by
  have hd : decode 0x1000#16 = .ok .qPop := decode_encode .qPop
  rw [agentStep_port_of_head (q := .m) hr hw, runWord, hd]

theorem agentStep_pop_of_empty (he : s.consumerEmpty = true) : agentStep (.port .m) s = .next (s.setPort .m) := by
  rw [agentStep_pop hr hw, exec_qPop_of_empty (hr.setPort .m) rfl he]

/-- Where the consumer sees a byte the pop responds the oldest (R122, R133). -/
theorem agentStep_pop_of_byte (h : s.QueueInv) (he : s.consumerEmpty = false) :
    ∃ v t, agentStep (.port .m) s = .next t ∧ t.respM = s.respM ++ [.byte v] ∧ t.streamM = s.streamM.tail ∧
      s.contents.head? = some v := by
  obtain ⟨v, hv⟩ := Option.isSome_iff_exists.mp (h.readable he)
  have hst := (agentStep_pop hr hw).trans (exec_qPop_of_byte (hr.setPort .m) rfl he hv)
  exact ⟨v, _, hst, rfl, rfl, by rw [h.contents_popped he hv, List.head?_cons]⟩

end Pop

/-- An agent other than port M's and the reset input leaves port M's stream and responses. -/
theorem agentStep_keeps_portM {a : Agent} {s t : State} (ha : a ≠ .reset) (hm : a ≠ .port .m)
    (h : agentStep a s = .next t) : t.streamM = s.streamM ∧ t.respM = s.respM := by
  obtain ⟨rs, hresp, hrs, -⟩ := agentStep_stepsQueue ha h
  obtain hstream | ⟨ham, -⟩ := streamsAdvanceInOrder a s t .m h
  · exact ⟨hstream, by simpa [hrs hm] using hresp⟩
  · exact absurd ham hm

/-- On an empty queue the consumer sees none (R132). -/
theorem State.QueueInv.consumerEmpty_of_empty {s : State} (h : s.QueueInv) (hocc : s.occupancy = 0) :
    s.consumerEmpty = true := by
  by_contra he
  have hseen := h.consumerEmpty_eq_false_iff.mp (by simpa using he)
  have hbet := h.writeView_between
  omega

/-- A pop that waits on an empty queue holds over every step. -/
theorem agentStep_pop_holds {a : Agent} {s t : State} (h : s.QueueInv) (hw : s.streamM.head = some 0x1000#16)
    (hocc : s.occupancy = 0) (ha : a ≠ .reset) (hst : agentStep a s = .next t) :
    t.streamM = s.streamM ∧ t.respM = s.respM := by
  by_cases hm : a = .port .m
  · subst hm
    obtain ⟨hl, -⟩ := agentStep_cases hst
    by_cases hf : s.faultCause = 0
    · rw [agentStep_pop_of_empty ⟨hl, hf⟩ hw (h.consumerEmpty_of_empty hocc)] at hst
      cases hst
      exact ⟨rfl, rfl⟩
    · rw [agentStep_of_faulted hl hf ha] at hst
      cases hst
      exact ⟨rfl, rfl⟩
  · exact agentStep_keeps_portM ha hm hst

/-- It holds over every run in which no byte is accepted. -/
theorem runAgents_pop_holds {as : List Agent} {s t : State} (h : s.QueueInv) (hw : s.streamM.head = some 0x1000#16)
    (hocc : s.occupancy = 0) (has : ∀ a ∈ as, a ≠ .reset) (hacc : acceptedOver as s = [])
    (hrun : runAgents as s = .next t) : t.streamM = s.streamM ∧ t.respM = s.respM := by
  induction as generalizing s with
  | nil =>
    cases hrun
    exact ⟨rfl, rfl⟩
  | cons a as ih =>
    obtain ⟨ha, has⟩ := List.forall_mem_cons.mp has
    obtain ⟨u, hu, hrun⟩ := runAgents_cons_next hrun
    rw [acceptedOver_cons hu, List.append_eq_nil_iff] at hacc
    obtain ⟨hacc, hacc'⟩ := hacc
    obtain ⟨hstream, hresp⟩ := agentStep_pop_holds h hw hocc ha hu
    obtain ⟨rs, -, -, hstep⟩ := agentStep_stepsQueue ha hu
    have hempty : s.contents = [] := List.length_eq_zero_iff.mp (s.length_contents.trans hocc)
    have hu0 : u.occupancy = 0 := by
      have hfifo := hstep.fifo h
      rw [hempty, hacc, List.nil_append, eq_comm, List.append_eq_nil_iff] at hfifo
      rw [← u.length_contents, hfifo.2, List.length_nil]
    obtain ⟨hstream', hresp'⟩ := ih (hstep.queueInv h) (hstream ▸ hw) hu0 has hacc' hrun
    exact ⟨hstream'.trans hstream, hresp'.trans hresp⟩

/-- Settles O35: the pop of a byte in view (`agentStep_pop_of_byte`), and the hold over a run
(`runAgents_pop_holds`). -/
theorem visibleByteIsPoppedNext : Obligations.VisibleByteIsPoppedNext := by
  unfold Obligations.VisibleByteIsPoppedNext
  constructor
  · intro s hr h hw hseen
    exact agentStep_pop_of_byte hr hw h.queue (h.queue.consumerEmpty_eq_false_iff.mpr hseen)
  · intro as s t h hw hocc has hacc hrun
    exact runAgents_pop_holds h.queue hw hocc has hacc hrun

/-! ### A fair order completes the pop -/

/-- From the invariant no agent's step stops (R131). -/
theorem agentStep_total {s : State} (hl : s.cfg.legal = true) (h : s.QueueInv) (a : Agent) :
    ∃ t, agentStep a s = .next t := by
  cases hst : agentStep a s with
  | next t => exact ⟨t, rfl⟩
  | fault f =>
    obtain ⟨he, hm⟩ := agentStep_fault hst
    simpa [hm] using h.readable he
  | refused r => exact absurd hst (agentStep_ne_refused hl a r)

/-- With a byte in the queue, the consumer sees one after the write pointer is copied. -/
theorem State.QueueInv.publishWrite_visible {s : State} (h : s.QueueInv) (hocc : s.occupancy ≠ 0) :
    (Machine.publishWrite s).consumerEmpty = false := by
  have hview : (Machine.publishWrite s).writeView = s.wptr := bin_gray_pointer h.wptr_lt
  refine h.publishWrite.consumerEmpty_eq_false_iff.mpr ?_
  rw [State.consumerOccupancy, hview]
  exact hocc

/-- In gray mode, where nothing is popped, a byte that the consumer sees stays in view. -/
theorem QueueStep.visible {s t : State} {acc : List Byte} (hs : QueueStep s t acc []) (h : s.QueueInv)
    (hg : s.cfg.syncMode = .gray) (he : s.consumerEmpty = false) : t.consumerEmpty = false := by
  have hcongr {u : State} (hq : u.SameQueue t) (hu : u.consumerEmpty = false) : t.consumerEmpty = false := by
    rw [← hu, State.consumerEmpty, State.consumerEmpty, hq.rptr, hq.writeView]
  cases hs with
  | kept hq => exact hcongr hq he
  | stored d _ hq =>
    refine hcongr hq ?_
    rwa [State.consumerEmpty, State.appended_writeView, if_neg (by simp [hg]), State.appended_rptr]
  | publishedWrite _ hq =>
    have hseen := h.consumerEmpty_eq_false_iff.mp he
    have hbet := h.writeView_between
    exact hcongr hq (h.publishWrite_visible (by omega))
  | publishedRead _ hq => exact hcongr hq he

/-- In gray mode, the block still waits with the pop of state `s₀`, whose oldest byte `v` is still unread. -/
structure Waiting (s₀ : State) (v : Byte) (s : State) : Prop where
  running : s.Running
  inv : s.QueueInv
  gray : s.cfg.syncMode = .gray
  pop : s.streamM.head = some 0x1000#16
  stream : s.streamM = s₀.streamM
  responses : s.respM = s₀.respM
  oldest : s.contents.head? = some v

/-- A fault has been recorded, or the pop of state `s₀` has responded `v`. -/
def PopEnds (s₀ : State) (v : Byte) (t : State) : Prop :=
  t.faultCause ≠ 0 ∨ t.respM = s₀.respM ++ [.byte v] ∧ t.streamM = s₀.streamM.tail

section Fair

variable {s₀ s : State} {v : Byte} (h : Waiting s₀ v s)
include h

/-- Port M's step completes the pop where the consumer sees the byte. -/
theorem Waiting.portM_of_visible (he : s.consumerEmpty = false) :
    ∃ t, agentStep (.port .m) s = .next t ∧ PopEnds s₀ v t := by
  obtain ⟨v', t, hst, hresp, hstream, hhead⟩ := agentStep_pop_of_byte h.running h.pop h.inv he
  obtain rfl : v = v' := Option.some.inj (h.oldest.symm.trans hhead)
  exact ⟨t, hst, .inr ⟨h.responses ▸ hresp, h.stream ▸ hstream⟩⟩

theorem Waiting.occupancy_ne : s.occupancy ≠ 0 := by
  intro hocc
  have hnil : s.contents = [] := List.length_eq_zero_iff.mp (s.length_contents.trans hocc)
  simpa [hnil] using h.oldest

/-- The step of `AG_SYNC_W` lets the consumer see the byte (R125). -/
theorem Waiting.visible_of_syncW {t : State} (hst : agentStep .syncW s = .next t) : t.consumerEmpty = false := by
  rw [agentStep_syncW h.running, syncWriteStep_of_gray h.gray] at hst
  cases hst
  exact h.inv.publishWrite_visible h.occupancy_ne

/-- A step of another agent that records no fault leaves the pop waiting, and a byte in view stays in view. -/
theorem Waiting.step_of_other {a : Agent} {t : State} (ha : a ≠ .reset) (hm : a ≠ .port .m)
    (hst : agentStep a s = .next t) (hf : t.faultCause = 0) :
    Waiting s₀ v t ∧ (s.consumerEmpty = false → t.consumerEmpty = false) := by
  have hcfg := agentStep_cfg hst
  obtain ⟨hstream, hresp⟩ := agentStep_keeps_portM ha hm hst
  obtain ⟨rs, -, hrs, hstep⟩ := agentStep_stepsQueue ha hst
  obtain rfl := hrs hm
  have hfifo : s.contents ++ acceptedBy a s = t.contents := hstep.fifo h.inv
  have holdest : t.contents.head? = some v := by
    rw [← hfifo, List.head?_append, h.oldest]
    rfl
  have hwait : Waiting s₀ v t :=
    { running := ⟨hcfg ▸ h.running.1, hf⟩
      inv := hstep.queueInv h.inv
      gray := hcfg ▸ h.gray
      pop := hstream ▸ h.pop
      stream := hstream.trans h.stream
      responses := hresp.trans h.responses
      oldest := holdest }
  exact ⟨hwait, hstep.visible h.inv h.gray⟩

/-- Every step ends the wait or leaves the pop waiting; port M's ends it where the consumer sees the byte. -/
theorem Waiting.step {a : Agent} (ha : a ≠ .reset) :
    ∃ t, agentStep a s = .next t ∧
      (PopEnds s₀ v t ∨
        Waiting s₀ v t ∧ (s.consumerEmpty = false → a ≠ .port .m ∧ t.consumerEmpty = false)) := by
  by_cases hm : a = .port .m
  · subst hm
    cases he : s.consumerEmpty with
    | false =>
      obtain ⟨t, hst, hend⟩ := h.portM_of_visible he
      exact ⟨t, hst, .inl hend⟩
    | true =>
      have hwait : Waiting s₀ v (s.setPort .m) := { h with inv := h.inv.congr ⟨rfl, rfl, rfl, rfl, rfl, rfl⟩ }
      exact ⟨_, agentStep_pop_of_empty h.running h.pop he, .inr ⟨hwait, by simp⟩⟩
  · obtain ⟨t, hst⟩ := agentStep_total h.running.1 h.inv a
    refine ⟨t, hst, ?_⟩
    by_cases hf : t.faultCause = 0
    · obtain ⟨hwait, hvis⟩ := h.step_of_other ha hm hst hf
      exact .inr ⟨hwait, fun he => ⟨hm, hvis he⟩⟩
    · exact .inl (.inl hf)

/-- A turn of port M to come ends the wait where the consumer sees the byte. -/
theorem Waiting.ends_of_visible {as : List Agent} (he : s.consumerEmpty = false) (has : ∀ a ∈ as, a ≠ .reset)
    (hturn : .port .m ∈ as) : ∃ k t, runAgents (as.take k) s = .next t ∧ PopEnds s₀ v t := by
  induction as generalizing s with
  | nil => cases hturn
  | cons a as ih =>
    obtain ⟨ha, has⟩ := List.forall_mem_cons.mp has
    obtain ⟨u, hu, hend | ⟨hwait, hvis⟩⟩ := h.step ha
    · exact ⟨1, u, runAgents_cons hu [], hend⟩
    · obtain ⟨hm, he⟩ := hvis he
      obtain ⟨k, t, hrun, hend⟩ := ih hwait he has (List.mem_of_ne_of_mem hm.symm hturn)
      exact ⟨k + 1, t, (runAgents_cons hu _).trans hrun, hend⟩

/-- A turn of `AG_SYNC_W` to come, and one of port M after it, end the wait. -/
theorem Waiting.ends {as : List Agent} (has : ∀ a ∈ as, a ≠ .reset) (hturns : [.syncW, .port .m].Sublist as) :
    ∃ k t, runAgents (as.take k) s = .next t ∧ PopEnds s₀ v t := by
  induction as generalizing s with
  | nil => cases hturns
  | cons a as ih =>
    obtain ⟨ha, hrest⟩ := List.forall_mem_cons.mp has
    obtain ⟨u, hu, hend | ⟨hwait, -⟩⟩ := h.step ha
    · exact ⟨1, u, runAgents_cons hu [], hend⟩
    · have hends : ∃ k t, runAgents (as.take k) u = .next t ∧ PopEnds s₀ v t := by
        cases hturns with
        | cons _ hturns => exact ih hwait hrest hturns
        | cons_cons _ hturns =>
          exact hwait.ends_of_visible (h.visible_of_syncW hu) hrest (List.singleton_sublist.mp hturns)
      obtain ⟨k, t, hrun, hend⟩ := hends
      exact ⟨k + 1, t, (runAgents_cons hu _).trans hrun, hend⟩

end Fair

/-- A fair order has a turn of `AG_SYNC_W` and, after it, one of port M (R133). -/
theorem FairForPop.exists_turns {f : Nat → Agent} (hf : FairForPop f) :
    ∃ n, [Agent.syncW, .port .m].Sublist ((List.range n).map f) := by
  obtain ⟨hsync, hport, -⟩ := hf
  obtain ⟨i, -, hi⟩ := hsync 0
  obtain ⟨j, hij, hj⟩ := hport (i + 1)
  have hturns : [i, j].Sublist (List.range (j + 1)) := by
    rw [List.range_succ]
    exact (List.singleton_sublist.mpr (List.mem_range.mpr (by omega))).append (List.Sublist.refl [j])
  exact ⟨j + 1, by simpa [hi, hj] using hturns.map f⟩

/-- Settles O36: a fair order has the two turns the pop waits for (`FairForPop.exists_turns`), and they end the wait
(`Waiting.ends`). -/
theorem fairScheduleCompletesPop : Obligations.FairScheduleCompletesPop := by
  unfold Obligations.FairScheduleCompletesPop
  intro f s hf hr h hg hw hocc
  obtain ⟨v, hv⟩ : ∃ v, s.contents.head? = some v := by
    refine Option.isSome_iff_exists.mp (List.isSome_head?.mpr fun hnil => hocc ?_)
    rw [← s.length_contents, hnil, List.length_nil]
  obtain ⟨n, hturns⟩ := hf.exists_turns
  obtain ⟨-, -, hnever⟩ := hf
  have hno : ∀ a ∈ (List.range n).map f, a ≠ .reset := by
    intro a ha
    obtain ⟨k, -, rfl⟩ := List.mem_map.mp ha
    exact hnever k
  have hwait : Waiting s v s := ⟨hr, h.queue, hg, hw, rfl, rfl, hv⟩
  obtain ⟨k, t, hrun, hend⟩ := hwait.ends hno hturns
  rw [← List.map_take, List.take_range] at hrun
  exact ⟨min k n, t, hrun, hend.imp_right fun ⟨hresp, hstream⟩ => ⟨v, hv, hresp, hstream⟩⟩

end Sys2Proof.Machine
end

section
/-! SUPPORT. The checksum's commands in a running block, and the fold of a byte sequence in closed form
(41_checksum.md R150–R154), with the obligations on them. -/

namespace Sys2Proof.Machine

/-! ### The commands -/

section Commands

variable {s : State} (hr : s.Running) (hp : s.port = .m)
include hr hp

/-- What a command that port M completes does with the stream, and with the rest of the block (R24). -/
theorem exec_eq_effectM {i : Instr} (hi : CompletesOnM s.cfg i) :
    exec i s = .next { s.effectM i with streamM := s.streamM.tail } := by
  have hc := s.sameControl_effectM i
  rw [exec_of_completesOnM hr hp hi, State.advance_of_m (hc.port.trans hp), hc.streamM]

theorem exec_ckReset : exec .ckReset s = .next { s with ckA := 0, ckB := 0, streamM := s.streamM.tail } :=
  exec_eq_effectM hr hp (completesOnM_ckReset s.cfg)

theorem exec_ckUpdate (d : Byte) :
    exec (.ckUpdate d) s = .next
      { s with ckA := s.ckA + d, ckB := s.ckB + (s.ckA + d), streamM := s.streamM.tail } :=
  exec_eq_effectM hr hp (completesOnM_ckUpdate s.cfg d)

theorem exec_ckRead :
    exec .ckRead s = .next
      { s with respM := s.respM ++ [.word (checksumWord s)], streamM := s.streamM.tail } :=
  exec_eq_effectM hr hp (completesOnM_ckRead s.cfg)

end Commands

/-- The response of `CK_READ` as a number (R152). -/
theorem toNat_checksumWord (s : State) : (checksumWord s).toNat = 256 * s.ckB.toNat + s.ckA.toNat := by
  rw [checksumWord, BitVec.toNat_append, ← Nat.shiftLeft_add_eq_or_of_lt s.ckA.isLt, Nat.shiftLeft_eq]
  omega

/-! ### The fold in closed form (R153) -/

@[simp] theorem checksumFold_nil (ab : Byte × Byte) : checksumFold ab [] = ab := rfl

@[simp] theorem checksumFold_cons (ab : Byte × Byte) (x : Byte) (xs : List Byte) :
    checksumFold ab (x :: xs) = checksumFold (ab.1 + x, ab.2 + (ab.1 + x)) xs := rfl

/-- The sum of the bytes. -/
def byteSum (xs : List Byte) : Nat := (xs.map BitVec.toNat).sum

/-- The sum of the bytes, each as often as it stands in the second sum: byte `i` of `k` counts `k - i` times. -/
def weightedByteSum (xs : List Byte) : Nat :=
  ((List.range xs.length).map fun i => (xs.length - i) * (xs.getD i 0).toNat).sum

@[simp] theorem byteSum_cons (x : Byte) (xs : List Byte) : byteSum (x :: xs) = x.toNat + byteSum xs := rfl

@[simp] theorem weightedByteSum_cons (x : Byte) (xs : List Byte) :
    weightedByteSum (x :: xs) = (xs.length + 1) * x.toNat + weightedByteSum xs := by
  simp [weightedByteSum, List.range_succ_eq_map, Function.comp_def]

/-- From any pair: the first sum gains the bytes; the second gains the first's old value once for each byte, and the
bytes with their weights. -/
theorem checksumFold_eq (a b : Byte) (xs : List Byte) :
    checksumFold (a, b) xs =
      (a + BitVec.ofNat 8 (byteSum xs),
        b + BitVec.ofNat 8 xs.length * a + BitVec.ofNat 8 (weightedByteSum xs)) := by
  induction xs generalizing a b with
  | nil => simp [byteSum, weightedByteSum]
  | cons x xs ih =>
    rw [checksumFold_cons, ih]
    simp only [byteSum_cons, weightedByteSum_cons, List.length_cons, BitVec.ofNat_add, BitVec.ofNat_mul,
      BitVec.add_mul, BitVec.one_mul,
      BitVec.ofNat_toNat, BitVec.setWidth_eq, Prod.mk.injEq]
    constructor <;> ring

/-- A reset and one update for each byte, from whatever pair the block holds (R150, R151). -/
theorem foldl_ckReset_ckUpdateMany (s : State) (xs : List Byte) :
    (Instr.ckReset :: ckUpdateMany xs).foldl State.takenByM s =
      (s.setPort .m).setChecksum (checksumFold (0, 0) xs).1 (checksumFold (0, 0) xs).2 := by
  rw [List.foldl_cons, foldl_ckUpdateMany (State.takenByM_port s .ckReset)]
  rfl

/-! ### Obligations -/

/-- Settles O37: the effect of `CK_RESET` in a running block (`exec_ckReset`). -/
theorem ckResetClearsPair : Obligations.CkResetClearsPair := by
  unfold Obligations.CkResetClearsPair
  exact ⟨decode_encode .ckReset, fun s hr hp => exec_ckReset hr hp, commandExceptions 0x3⟩

/-- Settles O38: the effect of `CK_UPDATE` in a running block (`exec_ckUpdate`), whose sums are of bytes. -/
theorem ckUpdateFoldsByte : Obligations.CkUpdateFoldsByte := by
  unfold Obligations.CkUpdateFoldsByte
  refine ⟨fun d => decode_encode (.ckUpdate d), fun d s hr hp => ?_, commandExceptions 0x4⟩
  exact ⟨_, _, exec_ckUpdate hr hp d, BitVec.toNat_add _ _, BitVec.toNat_add _ _⟩

/-- Settles O39: the effect of `CK_READ` in a running block (`exec_ckRead`), and its response as a number
(`toNat_checksumWord`). -/
theorem ckReadRespondsPair : Obligations.CkReadRespondsPair := by
  unfold Obligations.CkReadRespondsPair
  refine ⟨decode_encode .ckRead, fun s hr hp => ?_, commandExceptions 0x5⟩
  exact ⟨checksumWord s, exec_ckRead hr hp, toNat_checksumWord s⟩

/-- Settles O40: the run takes every command (`run_withCommandsM`), which leaves the fold in the pair
(`foldl_ckReset_ckUpdateMany`); its closed form is that from any pair (`checksumFold_eq`), from (0, 0). -/
theorem checksumIsTheFold : Obligations.ChecksumIsTheFold := by
  unfold Obligations.ChecksumIsTheFold
  refine ⟨checksumFold_nil, fun a b x xs => ?_, fun s xs later rest hr => ?_, fun xs => ?_⟩
  · rw [checksumFold_cons, BitVec.add_assoc]
  · have hall : ∀ i ∈ Instr.ckReset :: ckUpdateMany xs, CompletesOnM s.cfg i :=
      List.forall_mem_cons.mpr ⟨completesOnM_ckReset s.cfg, completesOnM_ckUpdateMany⟩
    have hrun := run_withCommandsM hr hall later rest
    rw [foldl_ckReset_ckUpdateMany, List.length_cons, ckUpdateMany, List.length_map] at hrun
    exact hrun
  · have hfold : checksumFold (0, 0) xs =
        (BitVec.ofNat 8 (byteSum xs), BitVec.ofNat 8 (weightedByteSum xs)) := by
      simp [checksumFold_eq]
    rw [hfold]
    exact ⟨BitVec.toNat_ofNat _ _, BitVec.toNat_ofNat _ _⟩

end Sys2Proof.Machine
end

section
/-! SUPPORT. The transposer's commands in a running block, and what each leaves unchanged (42_plane_transposer.md
R170–R178), with the obligations on them. -/

namespace Sys2Proof.Machine

/-! ### Operands -/

/-- An index that is no digit's (R92, the spec's decision D14). -/
theorem digitLegal_eq_false_iff (c : Config) (i : Index) :
    digitLegal c i = false ↔ i.toNat = 0 ∨ c.digits < i.toNat := by
  rw [← Bool.not_eq_true, digitLegal_iff]
  omega

theorem bcdLegal_eq_false_iff (v : Byte) : bcdLegal v = false ↔ v.extractLsb' 4 3 ≠ 0#3 := by
  rw [← Bool.not_eq_true, bcdLegal_iff]

/-- In a legal block the pattern of a BCD operand is the table's entry at its low four bits (R171, R172). -/
theorem bcdTable_getElem?_mod {c : Config} (hc : c.legal = true) (v : Byte) :
    Config.bcdTable[v.toNat % 16]? = some (bcdPattern c (v.extractLsb' 0 4)) := by
  have hcode : (v.extractLsb' 0 4).toNat = v.toNat % 16 := by simp
  have hlen : v.toNat % 16 < Config.bcdTable.length := Nat.mod_lt _ (by decide)
  rw [bcdPattern_of_legal hc, hcode, List.getD_eq_getElem _ _ hlen, List.getElem?_eq_getElem hlen]

/-- The mask of a BCD operand is its pattern, but for the decimal point that bit 7 asks for (R171). -/
theorem getLsbD_bcdMask (c : Config) (v : Byte) (k : Fin 8) :
    (bcdMask c v).getLsbD k.val =
      if k = 7 ∧ 128 ≤ v.toNat then true else (bcdPattern c (v.extractLsb' 0 4)).getLsbD k.val := by
  have hpoint : v.getLsbD 7 = decide (128 ≤ v.toNat) := BitVec.msb_eq_decide v
  have hbit : (0x80#8).getLsbD k.val = decide (k = 7) := by decide +revert
  rw [bcdMask, hpoint]
  by_cases h : 128 ≤ v.toNat
  · rw [if_pos (decide_eq_true h), BitVec.getLsbD_or, hbit]
    by_cases hk : k = 7 <;> simp [h, hk]
  · rw [if_neg (by simp [h]), if_neg (by simp [h])]

/-! ### The commands -/

section Commands

variable {s : State} (hr : s.Running) (hp : s.port = .m)
include hr hp

theorem exec_tpSetDigit {i : Index} (hi : digitLegal s.cfg i = true) (m : Byte) :
    exec (.tpSetDigit i m) s = .next
      { s with plane := setColumn s.plane (s.cfg.permAt i.toNat) m, streamM := s.streamM.tail } :=
  exec_eq_effectM hr hp ⟨by simp, hi, by simp⟩

theorem exec_tpSetDigit_of_badIndex {i : Index} (hi : digitLegal s.cfg i = false) (m : Byte) :
    exec (.tpSetDigit i m) s = .next (s.latch 4 1 (encode (.tpSetDigit i m))) := by
  show execTpSetDigit i m s = _
  rw [execTpSetDigit, accept_of_allowed hr (by simp [hp]), if_neg (by simp [hi]), raise_eq, hp]
  rfl

theorem exec_tpSetDigitBcd {i : Index} {v : Byte} (hi : digitLegal s.cfg i = true) (hv : bcdLegal v = true) :
    exec (.tpSetDigitBcd i v) s = .next
      { s with
        plane := setColumn s.plane (s.cfg.permAt i.toNat) (bcdMask s.cfg v), streamM := s.streamM.tail } :=
  exec_eq_effectM hr hp ⟨by simp, Bool.and_eq_true_iff.mpr ⟨hi, hv⟩, by simp⟩

theorem exec_tpSetDigitBcd_of_badIndex {i : Index} (hi : digitLegal s.cfg i = false) (v : Byte) :
    exec (.tpSetDigitBcd i v) s = .next (s.latch 4 1 (encode (.tpSetDigitBcd i v))) := by
  show execTpSetDigitBcd i v s = _
  rw [execTpSetDigitBcd, accept_of_allowed hr (by simp [hp]), if_neg (by simp [hi]), raise_eq, hp]
  rfl

theorem exec_tpSetDigitBcd_of_badValue {i : Index} {v : Byte} (hi : digitLegal s.cfg i = true)
    (hv : bcdLegal v = false) :
    exec (.tpSetDigitBcd i v) s = .next (s.latch 5 1 (encode (.tpSetDigitBcd i v))) := by
  show execTpSetDigitBcd i v s = _
  rw [execTpSetDigitBcd, accept_of_allowed hr (by simp [hp]), if_pos hi, if_neg (by simp [hv]), raise_eq, hp]
  rfl

theorem exec_tpClear : exec .tpClear s = .next { s with plane := zeroPlanes, streamM := s.streamM.tail } :=
  exec_eq_effectM hr hp ⟨by decide, rfl, by simp⟩

theorem exec_tpFlush :
    exec .tpFlush s = .next
      { s with
        out := s.out ++ (flushPairs s.plane).map fun x => OutEvent.pair .flush x.1 x.2
        streamM := s.streamM.tail } :=
  exec_eq_effectM hr hp ⟨by decide, rfl, by simp⟩

theorem exec_tpInit :
    exec .tpInit s = .next
      { s with
        out := s.out ++ (initPairs s.cfg).map fun x => OutEvent.pair .init x.1 x.2
        streamM := s.streamM.tail } :=
  exec_eq_effectM hr hp ⟨by decide, rfl, by simp⟩

theorem exec_tpShowNoSignal (t : Byte) :
    exec (.tpShowNoSignal t) s = .next
      { s with plane := noSignalPlanes (s.cfg.permAt (tickDigit s.cfg t)), streamM := s.streamM.tail } :=
  exec_eq_effectM hr hp ⟨by simp, rfl, by simp⟩

end Commands

/-! ### Obligations -/

/-- Settles O42: the effect of `TP_SET_DIGIT` on a digit (`exec_tpSetDigit`), bit by bit (`getLsbD_setColumn`), and its
fault on every other index (`exec_tpSetDigit_of_badIndex`). -/
theorem tpSetDigitWritesColumn : Obligations.TpSetDigitWritesColumn := by
  unfold Obligations.TpSetDigitWritesColumn
  refine ⟨fun i m => decode_encode (.tpSetDigit i m), fun i m s hr hp => ⟨fun h1 hd => ?_, fun hbad => ?_⟩,
    (commandExceptions 0x6).1⟩
  · have hi : digitLegal s.cfg i = true := (digitLegal_iff s.cfg i).mpr ⟨h1, hd⟩
    exact ⟨_, _, permAt_of_digit hr.1 h1 hd, exec_tpSetDigit hr hp hi m, getLsbD_setColumn s.plane _ m⟩
  · exact exec_tpSetDigit_of_badIndex hr hp ((digitLegal_eq_false_iff s.cfg i).mpr hbad) m

/-- Settles O43: the effect of `TP_SET_DIGIT_BCD` on a digit (`exec_tpSetDigitBcd`), whose mask is the table's pattern
with the decimal point (`getLsbD_bcdMask`), and its faults, the index's before the value's. -/
theorem tpSetDigitBcdWritesPattern : Obligations.TpSetDigitBcdWritesPattern := by
  unfold Obligations.TpSetDigitBcdWritesPattern
  refine ⟨fun i v => decode_encode (.tpSetDigitBcd i v),
    fun i v s hr hp => ⟨fun h1 hd hv => ?_, fun hbad => ?_, fun h1 hd hv => ?_⟩, (commandExceptions 0x7).1⟩
  · have hi : digitLegal s.cfg i = true := (digitLegal_iff s.cfg i).mpr ⟨h1, hd⟩
    refine ⟨_, _, _, permAt_of_digit hr.1 h1 hd, bcdTable_getElem?_mod hr.1 v,
      exec_tpSetDigitBcd hr hp hi ((bcdLegal_iff v).mpr hv), fun k b => ?_⟩
    rw [getLsbD_setColumn, getLsbD_bcdMask]
  · exact exec_tpSetDigitBcd_of_badIndex hr hp ((digitLegal_eq_false_iff s.cfg i).mpr hbad) v
  · exact exec_tpSetDigitBcd_of_badValue hr hp ((digitLegal_iff s.cfg i).mpr ⟨h1, hd⟩)
      ((bcdLegal_eq_false_iff v).mpr hv)

/-- Settles O44: the effect of `TP_FLUSH` in a running block (`exec_tpFlush`). -/
theorem tpFlushEmitsPlanes : Obligations.TpFlushEmitsPlanes := by
  unfold Obligations.TpFlushEmitsPlanes
  exact ⟨decode_encode .tpFlush, fun s hr hp => exec_tpFlush hr hp, commandExceptions 0x9⟩

/-- Settles O45: the effect of `TP_INIT` in a running block (`exec_tpInit`). -/
theorem tpInitEmitsStartUp : Obligations.TpInitEmitsStartUp := by
  unfold Obligations.TpInitEmitsStartUp
  exact ⟨decode_encode .tpInit, fun s hr hp => exec_tpInit hr hp, commandExceptions 0xA⟩

/-- Settles O46: the effect of `TP_CLEAR` in a running block (`exec_tpClear`). -/
theorem tpClearZeroesPlanes : Obligations.TpClearZeroesPlanes := by
  unfold Obligations.TpClearZeroesPlanes
  exact ⟨decode_encode .tpClear, fun s hr hp => exec_tpClear hr hp, commandExceptions 0x8⟩

/-- Settles O47: the effect of `TP_SHOW_NO_SIGNAL` in a running block (`exec_tpShowNoSignal`), bit by bit; the digit of
the tick is one of 1..D (`tickDigit_le`). -/
theorem tpShowNoSignalLightsOnePoint : Obligations.TpShowNoSignalLightsOnePoint := by
  unfold Obligations.TpShowNoSignalLightsOnePoint
  refine ⟨fun t => decode_encode (.tpShowNoSignal t), fun t s hr hp => ?_, commandExceptions 0xB⟩
  obtain ⟨h1, hd⟩ := tickDigit_le hr.1 t
  exact ⟨_, _, permAt_of_digit hr.1 h1 hd, exec_tpShowNoSignal hr hp t, getLsbD_noSignalPlanes _⟩

end Sys2Proof.Machine
end

section
/-! SUPPORT. What the transposer's commands can do and leave unchanged, on any port and in any state
(42_plane_transposer.md R177, R178), with the obligations on them. -/

namespace Sys2Proof.Machine

/-- A command that does not enter its rule leaves a fault recorded (R226, R227). -/
theorem Untouched.faultCause_ne {s t : State} (h : Untouched s t) : t.faultCause ≠ 0 := by
  obtain ⟨hf, rfl⟩ | ⟨-, c, w, rfl⟩ := h
  · exact hf
  · exact c.code_bounds.1

/-- A digit command that ends without a fault has written its mask to the column of a legal digit (R170, R171). -/
theorem digitCommand_cases {i : Index} {v m : Byte} {c : Instr} {s t : State}
    (hc : c = .tpSetDigit i m ∨ (c = .tpSetDigitBcd i v ∧ m = bcdMask s.cfg v)) (h : exec c s = .next t)
    (hf : t.faultCause = 0) : digitLegal s.cfg i = true ∧ t = (writeDigit i m s).advance := by
  obtain rfl | ⟨rfl, rfl⟩ := hc
  · obtain hu | ⟨-, -, hi, ht⟩ := execTpSetDigit_cases h
    · exact absurd hf hu.faultCause_ne
    · exact ⟨hi, ht⟩
  · obtain hu | ⟨-, -, hi, -, ht⟩ := execTpSetDigitBcd_cases h
    · exact absurd hf hu.faultCause_ne
    · exact ⟨hi, ht⟩

/-- Settles O48: the command wrote its digit's column (`digitCommand_cases`), whose bits sum to the mask, and the other
digits have other positions (`permAt_inj`). -/
theorem planesHoldTheTranspose : Obligations.PlanesHoldTheTranspose := by
  unfold Obligations.PlanesHoldTheTranspose
  intro i v m c s t hc hr h hf
  obtain ⟨hi, rfl⟩ := digitCommand_cases hc h hf
  have hplane (k b : Fin 8) : (writeDigit i m s).advance.plane[k].getLsbD b.val =
      if b = s.cfg.permAt i.toNat then m.getLsbD k.val else s.plane[k].getLsbD b.val := by
    rw [State.advance_plane]
    exact getLsbD_setColumn s.plane _ m k b
  refine ⟨?_, fun j h1 hd hne k => ?_⟩
  · simp only [hplane, if_true, sum_bits]
  · have hother : s.cfg.permAt j ≠ s.cfg.permAt i.toNat :=
      mt (permAt_inj hr.1 ⟨h1, hd⟩ ((digitLegal_iff s.cfg i).mp hi)).mp hne
    rw [hplane, if_neg hother]

/-- What the transposer's commands can do: a fault entry, a write of the planes, or a burst of `OUT` (R178). -/
theorem transposer_cases {i : Instr} {s t : State}
    (hi : (∃ k m, i = .tpSetDigit k m) ∨ (∃ k v, i = .tpSetDigitBcd k v) ∨ i = .tpClear ∨ i = .tpFlush ∨
      i = .tpInit ∨ ∃ v, i = .tpShowNoSignal v) (h : exec i s = .next t) :
    Untouched s t ∨
      (∃ pl, ¬ (i = .tpFlush ∨ i = .tpInit) ∧ t = (s.setPlane pl).advance) ∨
      (∃ e ps, (i = .tpFlush ∨ i = .tpInit) ∧ t = (s.emitAll e ps).advance) := by
  obtain ⟨k, m, rfl⟩ | ⟨k, v, rfl⟩ | rfl | rfl | rfl | ⟨v, rfl⟩ := hi
  · exact (execTpSetDigit_cases h).imp_right fun ⟨_, _, _, ht⟩ => .inl ⟨_, by simp, ht⟩
  · exact (execTpSetDigitBcd_cases h).imp_right fun ⟨_, _, _, _, ht⟩ => .inl ⟨_, by simp, ht⟩
  · exact (execTpClear_cases h).imp_right fun ⟨_, _, ht⟩ => .inl ⟨_, by simp, ht⟩
  · exact (execTpFlush_cases h).imp_right fun ⟨_, _, ht⟩ => .inr ⟨_, _, .inl rfl, ht⟩
  · exact (execTpInit_cases h).imp_right fun ⟨_, _, ht⟩ => .inr ⟨_, _, .inr rfl, ht⟩
  · exact (execTpShowNoSignal_cases h).imp_right fun ⟨_, _, ht⟩ => .inl ⟨_, by simp, ht⟩

theorem State.sameControl_setPlane (s : State) (pl : Vector Byte 8) : s.SameControl (s.setPlane pl) := by
  constructor <;> rfl

theorem State.sameControl_emitAll (s : State) (e : Sender) (ps : List (Byte × Byte)) :
    s.SameControl (s.emitAll e ps) := by
  constructor <;> rfl

/-- Settles O59: a fault entry, the write of the planes, and the burst, one by one (`transposer_cases`). -/
theorem transposerFrame : Obligations.TransposerFrame := by
  unfold Obligations.TransposerFrame
  intro i s t hi h
  obtain hu | ⟨pl, hno, rfl⟩ | ⟨e, ps, hburst, rfl⟩ := transposer_cases hi h
  · obtain ⟨hset, hstr, hflt⟩ := hu.commandFrame
    obtain ⟨c, q, w, rfl⟩ := hu.eq_latch
    simp [State.SameStorage, State.SamePointers, State.SameChecksum, State.SameWindow, hset, hstr, hflt]
  · obtain ⟨hset, hstr, hflt⟩ := (s.sameControl_setPlane pl).commandFrame_advance rfl rfl
    simp [State.SameStorage, State.SamePointers, State.SameChecksum, State.SameWindow, hset, hstr, hflt, hno]
  · obtain ⟨hset, hstr, hflt⟩ := (s.sameControl_emitAll e ps).commandFrame_advance rfl rfl
    have hne : i ≠ .tpFlush → i = .tpInit := hburst.resolve_left
    simp +contextual [State.SameStorage, State.SamePointers, State.SameChecksum, State.SameWindow, hset, hstr, hflt,
      hne]

end Sys2Proof.Machine
end

section
/-! SUPPORT. The window of `MA_SAMPLE` by age and the bound of its intensity, and what `MA_SAMPLE` and the reserved
opcodes leave unchanged (43_moving_average.md R200–R202, 60_exceptions.md R221, R226), with the obligations on them. -/

namespace Sys2Proof.Machine

/-! ### The intensity of an exact window -/

theorem windowSum_le (win : List Sample) : (win.map BitVec.toNat).sum ≤ win.length * 1023 := by
  have h := List.sum_le_card_nsmul (win.map BitVec.toNat) 1023 (by
    intro x hx
    obtain ⟨v, -, rfl⟩ := List.mem_map.mp hx
    omega)
  simpa using h

/-- The average of a window is a sample's size, and R6 bounds the intensity of every sample (R204). -/
theorem State.WindowInv.intensity_le {s : State} (h : s.WindowInv) (hc : s.cfg.legal = true) :
    s.sum / s.cfg.w / s.cfg.idiv ≤ 15 := by
  obtain ⟨-, -, -, -, -, -, hfit, -, -, -, -, hsw⟩ := (Config.legal_iff s.cfg).mp hc
  have hsum : s.sum ≤ s.cfg.w * 1023 := by
    rw [h.sum_eq, ← h.length_eq]
    exact windowSum_le s.win
  have hwidth : 2 ^ 10 ≤ 2 ^ s.cfg.sw := Nat.pow_le_pow_right (by decide) hsw
  calc s.sum / s.cfg.w / s.cfg.idiv
      ≤ 1023 / s.cfg.idiv := Nat.div_le_div_right (Nat.div_le_of_le_mul hsum)
    _ ≤ (2 ^ s.cfg.sw - 1) / s.cfg.idiv := Nat.div_le_div_right (by omega)
    _ ≤ 15 := hfit

/-! ### The window by age -/

/-- The elements of the window, oldest first: from the slot the next sample will take (R33, R35). -/
def State.byAge (s : State) : List Sample := s.win.rotate s.widx

theorem State.byAge_perm (s : State) : s.byAge.Perm s.win := List.rotate_perm s.win s.widx

@[simp] theorem State.length_byAge (s : State) : s.byAge.length = s.win.length := List.length_rotate ..

/-- A new element in slot `i`, with the index moved past it, takes the place of the oldest and is the newest. -/
theorem rotate_succ_set {l : List Sample} {i : Nat} (hi : i < l.length) (r : Sample) :
    (l.set i r).rotate (i + 1) = (l.rotate i ++ [r]).drop 1 := by
  rw [List.rotate_eq_drop_append_take (by simpa using hi), List.rotate_eq_drop_append_take hi.le,
    List.drop_eq_getElem_cons hi, List.drop_set_of_lt (by omega), List.take_add_one, List.take_set_of_le le_rfl]
  simp [hi]

/-- A sample drops the oldest element and becomes the newest (R200). -/
theorem State.WindowInv.byAge_sampled {s : State} (h : s.WindowInv) (r : Sample) :
    (s.sampled r).byAge = (s.byAge ++ [r]).drop 1 := by
  have hi : s.widx < s.win.length := h.length_eq ▸ h.widx_lt
  have hlen : (s.win.set s.widx r).length = s.cfg.w := by simp [h.length_eq]
  calc (s.sampled r).byAge = (s.win.set s.widx r).rotate (s.widx + 1) := by
        rw [State.byAge, State.sampled_win, State.sampled_widx, ringNext, ← hlen, List.rotate_mod]
    _ = (s.byAge ++ [r]).drop 1 := rotate_succ_set hi r

/-! ### The window after a list of samples -/

@[simp] theorem State.sampledAll_cfg (s : State) (vs : List Sample) : (s.sampledAll vs).cfg = s.cfg := by
  induction vs generalizing s with
  | nil => rfl
  | cons v vs ih => exact ih (s.sampled v)

/-- Each sample of a list drops one of the oldest elements (R201). -/
theorem State.WindowInv.byAge_sampledAll {s : State} (h : s.WindowInv) (hc : s.cfg.legal = true)
    (vs : List Sample) : (s.sampledAll vs).byAge = (s.byAge ++ vs).drop vs.length := by
  induction vs generalizing s with
  | nil => simp
  | cons v vs ih =>
    have hone : 1 ≤ (s.byAge ++ [v]).length := by simp
    calc (s.sampledAll (v :: vs)).byAge = ((s.byAge ++ [v]).drop 1 ++ vs).drop vs.length := by
          rw [State.sampledAll_cons, ih (h.sampled hc v) hc, h.byAge_sampled]
      _ = (s.byAge ++ v :: vs).drop (vs.length + 1) := by
          rw [← List.drop_append_of_le_length hone, List.drop_drop, List.append_assoc, Nat.add_comm 1]
          rfl

theorem State.WindowInv.widx_sampledAll {s : State} (h : s.WindowInv) (hc : s.cfg.legal = true)
    (vs : List Sample) : (s.sampledAll vs).widx = (s.widx + vs.length) % s.cfg.w := by
  induction vs generalizing s with
  | nil => exact (Nat.mod_eq_of_lt h.widx_lt).symm
  | cons v vs ih =>
    rw [State.sampledAll_cons, ih (h.sampled hc v) hc, State.sampled_widx, State.sampled_cfg, ringNext,
      Nat.mod_add_mod, List.length_cons, Nat.add_assoc, Nat.add_comm 1]

/-- After one sample or more the newest pair of `OUT` is the intensity of the sum as it stands (R200, R205). -/
theorem State.getLast?_out_sampledAll (s : State) {vs : List Sample} (hne : vs ≠ []) :
    (s.sampledAll vs).out.getLast? =
      some (.pair .sample s.cfg.drvIntensityAddr (intensity s.cfg (s.sampledAll vs).sum)) := by
  obtain ⟨us, v, rfl⟩ := (List.eq_nil_or_concat' vs).resolve_left hne
  have hlast : s.sampledAll (us ++ [v]) = (s.sampledAll us).sampled v := List.foldl_concat ..
  rw [hlast, ← s.sampledAll_cfg us]
  exact List.getLast?_concat

/-! ### What `MA_SAMPLE` and the reserved opcodes can do -/

theorem sampleAndReserved_cases {i : Instr} {s t : State}
    (hi : (∃ r, i = .maSample r) ∨ (∃ x, i = .reservedD x) ∨ (∃ x, i = .reservedE x) ∨ ∃ x, i = .reservedF x)
    (h : exec i s = .next t) :
    Untouched s t ∨ ∃ r, i = .maSample r ∧ t = (emitIntensity (integrate r s)).advance := by
  obtain ⟨r, rfl⟩ | ⟨x, rfl⟩ | ⟨x, rfl⟩ | ⟨x, rfl⟩ := hi
  · exact (execMaSample_cases h).imp_right fun ⟨_, _, ht⟩ => ⟨r, rfl, ht⟩
  · exact .inl (execReservedD_cases h)
  · exact .inl (execReservedE_cases h)
  · exact .inl (execReservedF_cases h)

theorem State.sameControl_emitIntensity_integrate (s : State) (r : Sample) :
    s.SameControl (emitIntensity (integrate r s)) := by
  rw [emitIntensity_eq, integrate_eq]
  constructor <;> rfl

/-! ### Obligations -/

/-- Settles O51: the rule's effect (`exec_maSample`) with the exact sum of the window's invariant, which the sample
keeps and which bounds the intensity. -/
theorem maSampleIntegrates : Obligations.MaSampleIntegrates := by
  unfold Obligations.MaSampleIntegrates
  refine ⟨fun r => decode_encode (.maSample r), fun r s hr hp h => ⟨?effect, ?old, ?bound⟩, commandExceptions 0xC⟩
  case effect =>
    rw [exec_maSample hr hp, State.sampled, h.nextSum_eq hr.1]
    rfl
  case old =>
    rw [h.sum_eq]
    exact windowSum_ge_winRead (h.length_eq ▸ h.widx_lt)
  case bound =>
    have hbound := (h.sampled hr.1 r).intensity_le hr.1
    have hsum : (s.sampled r).sum = s.sum - (winRead s.win s.widx).toNat + r.toNat := h.nextSum_eq hr.1 r
    rw [hsum] at hbound
    exact hbound

/-- Settles O53: the run takes every sample (`run_withSamples`), the elements by age are then the last `W`
(`State.WindowInv.byAge_sampledAll`), and the window's invariant gives the sum. -/
theorem windowHoldsLastSamples : Obligations.WindowHoldsLastSamples := by
  unfold Obligations.WindowHoldsLastSamples
  intro s vs later rest hr h hlen
  have hage : (s.sampledAll vs).byAge = vs.drop (vs.length - s.cfg.w) := by
    have hold : s.byAge.length = s.cfg.w := by rw [State.length_byAge, h.length_eq]
    rw [h.byAge_sampledAll hr.1, List.drop_append, hold, List.drop_of_length_le (by omega), List.nil_append]
  have hperm : (s.sampledAll vs).win.Perm (vs.drop (vs.length - s.cfg.w)) :=
    hage ▸ (s.sampledAll vs).byAge_perm.symm
  have hsum : (s.sampledAll vs).sum = ((vs.drop (vs.length - s.cfg.w)).map BitVec.toNat).sum := by
    rw [(h.sampledAll hr.1 vs).sum_eq, (hperm.map BitVec.toNat).sum_eq]
  have hne : vs ≠ [] := List.ne_nil_of_length_pos ((Config_w_pos hr.1).trans_le hlen)
  have hout := s.getLast?_out_sampledAll hne
  rw [hsum] at hout
  exact ⟨_, run_withSamples hr vs later rest, hperm, hsum, h.widx_sampledAll hr.1 vs, hout⟩

/-- Settles O60: a fault entry and the effect of a sample, one by one (`sampleAndReserved_cases`). -/
theorem sampleAndReservedFrame : Obligations.SampleAndReservedFrame := by
  unfold Obligations.SampleAndReservedFrame
  intro i s t hi h
  obtain hu | ⟨r, rfl, rfl⟩ := sampleAndReserved_cases hi h
  · obtain ⟨hset, hstr, hflt⟩ := hu.commandFrame
    have hown := hu.stream s.port
    obtain ⟨c, q, w, rfl⟩ := hu.eq_latch
    simp [State.SameStorage, State.SamePointers, State.SameChecksum, State.SameWindow, hset, hstr, hflt, hown]
  · obtain ⟨hset, hstr, hflt⟩ := (s.sameControl_emitIntensity_integrate r).commandFrame_advance rfl rfl
    have hsample : ¬ ∀ r', Instr.maSample r ≠ .maSample r' := fun hno => hno r rfl
    refine ⟨fun a => ?_, ?_, ?_, ?_, hset, hstr, ?_, ?_, hflt, fun hno => absurd hno hsample⟩
    all_goals simp [emitIntensity_eq, integrate_eq, State.SamePointers, State.SameChecksum]

end Sys2Proof.Machine
end

section
/-! SUPPORT. The causes that apply to a word and which of them is recorded (60_exceptions.md R220–R226), with the
obligations on faults. -/

namespace Sys2Proof.Machine

/-! ### The cause that a command's own rule raises -/

/-- The cause that a command's own rule raises on an allowed port, in the order of R225: a reserved opcode (R221), a
digit index outside 1..D, a BCD value with a bit of `v[6:4]` set (R224). -/
def operandCause (c : Config) : Instr → Option FaultCause
  | .tpSetDigit i _ => if digitLegal c i = false then some .badDigitIndex else none
  | .tpSetDigitBcd i v =>
    if digitLegal c i = false then some .badDigitIndex else if bcdLegal v = false then some .badBcdValue else none
  | .reservedD _ => some .illegalOpcode
  | .reservedE _ => some .illegalOpcode
  | .reservedF _ => some .illegalOpcode
  | _ => none

/-- A command is well formed exactly where its rule raises nothing. -/
theorem operandCause_eq_none_iff (c : Config) (i : Instr) : operandCause c i = none ↔ i.wellFormed c = true := by
  cases i with
  | tpSetDigit k m => simp [operandCause, Instr.wellFormed, legalDigit_eq]
  | tpSetDigitBcd k v =>
    cases hk : digitLegal c k <;> simp [operandCause, Instr.wellFormed, legalDigit_eq, legalBcd_eq, hk]
  | _ => simp [operandCause, Instr.wellFormed]

/-- A pop of a slot that holds no value stops the model (R25, log entry 9). -/
theorem exec_qPop_of_unwritten {s : State} (hr : s.Running) (hp : s.port = .m) (he : s.consumerEmpty = false)
    (hm : memRead s.qmem (s.slotOf s.rptr) = none) :
    exec .qPop s = .fault (.unwrittenQueueSlot (s.slotOf s.rptr)) :=
  onlyUnwrittenSlotsStop.1 s hr hp (beq_eq_false_iff_ne.mp he) hm

section Allowed

variable {i : Instr} {s : State} (hr : s.Running) (hp : s.port ∈ opcodePorts (fieldOp (encode i)))
include hr hp

/-- A command whose rule raises a cause takes that fault, with its own word. -/
theorem exec_of_operandCause {c : FaultCause} (hc : operandCause s.cfg i = some c) :
    exec i s = .next (s.latch c.code (portCode s.port) (encode i)) := by
  cases i with
  | tpSetDigit k m =>
    have hm : s.port = .m := by simpa using hp
    obtain ⟨hk, rfl⟩ : digitLegal s.cfg k = false ∧ .badDigitIndex = c := by simpa [operandCause] using hc
    rw [exec_tpSetDigit_of_badIndex hr hm hk, hm]
    rfl
  | tpSetDigitBcd k v =>
    have hm : s.port = .m := by simpa using hp
    cases hk : digitLegal s.cfg k with
    | false =>
      obtain rfl : .badDigitIndex = c := by simpa [operandCause, hk] using hc
      rw [exec_tpSetDigitBcd_of_badIndex hr hm hk, hm]
      rfl
    | true =>
      obtain ⟨hv, rfl⟩ : bcdLegal v = false ∧ .badBcdValue = c := by simpa [operandCause, hk] using hc
      rw [exec_tpSetDigitBcd_of_badValue hr hm hk hv, hm]
      rfl
  | reservedD x | reservedE x | reservedF x =>
    cases hc
    exact accept_of_allowed hr hp
  | _ => cases hc

/-- A well-formed command records no fault: it completes, or holds. -/
theorem exec_faultCause_of_wellFormed (hwf : i.wellFormed s.cfg = true) {t : State} (h : exec i s = .next t) :
    t.faultCause = 0 := by
  cases i with
  | qAppend d =>
    have hP : s.port = .p := by simpa using hp
    cases hf : s.producerFull with
    | true =>
      rw [exec_qAppend_of_full hr hP d hf] at h
      cases h
      exact hr.2
    | false =>
      rw [exec_qAppend_of_room hr hP d hf] at h
      cases h
      exact (s.sameControl_appended d).faultCause.trans hr.2
  | qPop =>
    have hM : s.port = .m := by simpa using hp
    cases he : s.consumerEmpty with
    | true =>
      rw [exec_qPop_of_empty hr hM he] at h
      cases h
      exact hr.2
    | false =>
      cases hv : memRead s.qmem (s.slotOf s.rptr) with
      | none =>
        rw [exec_qPop_of_unwritten hr hM he hv] at h
        cases h
      | some v =>
        rw [exec_qPop_of_byte hr hM he hv] at h
        cases h
        exact s.sameControl_popped.faultCause.trans hr.2
  | qIsEmpty =>
    have hx : exec .qIsEmpty s = .next (s.respond (.bit (BitVec.ofBool (s.emptyOn s.port)))).advance := by
      show execQIsEmpty s = _
      rw [execQIsEmpty, accept_of_allowed hr hp, complete_eq]
    rw [hx] at h
    cases h
    rw [State.advance_faultCause, (s.sameControl_respond _).faultCause, hr.2]
  | maSample r =>
    rw [exec_maSample hr (by simpa using hp)] at h
    cases h
    exact hr.2
  | reservedD x | reservedE x | reservedF x => cases hwf
  | _ =>
    have hM : s.port = .m := by simpa using hp
    rw [exec_of_completesOnM hr hM ⟨hM ▸ hp, hwf, by simp⟩] at h
    cases h
    rw [State.advance_faultCause, (s.sameControl_effectM _).faultCause, hr.2]

end Allowed

/-! ### The first cause of a word -/

/-- A word whose zero fields are zero runs its command. -/
theorem runWord_of_zeroFields {w : Word} (hz : w &&& zeroMask (fieldOp w) = 0) (s : State) :
    runWord w s = exec (instrOf w) s := by
  rw [runWord, decode_eq_ok_iff.mpr ⟨hz, rfl⟩]

/-- The cause of the command that a word's opcode and operands stand for, read off the word (R220). -/
theorem operandCause_instrOf (c : Config) (w : Word) :
    operandCause c (instrOf w) =
      if 13 ≤ (fieldOp w).toNat then some .illegalOpcode
      else if ((fieldOp w).toNat = 6 ∨ (fieldOp w).toNat = 7) ∧ digitLegal c (fieldA w) = false then
        some .badDigitIndex
      else if (fieldOp w).toNat = 7 ∧ bcdLegal (fieldD w) = false then some .badBcdValue
      else none := by
  unfold instrOf
  split
  case h_16 =>
    have hop : 13 ≤ (fieldOp w).toNat := by grind
    simp [operandCause, hop]
  all_goals simp [operandCause, *]

/-- The reserved opcodes are on every port and have no zero fields (R95, R100). -/
theorem reserved_allowed {op : BitVec 4} (h : 13 ≤ op.toNat) : zeroMask op = 0 ∧ ∀ q, q ∈ opcodePorts op := by
  have hop : op = 0xD ∨ op = 0xE ∨ op = 0xF := by bv_omega
  obtain rfl | rfl | rfl := hop <;> exact ⟨rfl, fun q => by cases q <;> decide⟩

theorem head?_ite_append {α : Type} (p : Prop) [Decidable p] (a : α) (l : List α) :
    ((if p then [a] else []) ++ l).head? = if p then some a else l.head? := by
  split <;> rfl

/-- The first cause that applies to a word: of its port, of its zero fields, and then of its command's rule (R99,
R225). -/
theorem head?_causesOf (c : Config) (w : Word) (q : Port) :
    (causesOf c w q).head? =
      if q ∉ opcodePorts (fieldOp w) then some .wrongPort
      else if w &&& zeroMask (fieldOp w) ≠ 0 then some .reservedField
      else operandCause c (instrOf w) := by
  by_cases hop : 13 ≤ (fieldOp w).toNat
  · obtain ⟨hzero, hports⟩ := reserved_allowed hop
    simp [causesOf, hop, hzero, hports, operandCause_instrOf]
  · simp only [causesOf, operandCause_instrOf, if_neg hop, List.nil_append, List.append_assoc, head?_ite_append,
      apply_ite List.head?, List.head?_cons, List.head?_nil, digitLegal_eq_false_iff, bcdLegal_eq_false_iff,
      BitVec.ofNat_eq_ofNat]

section Causes

variable {w : Word} {s : State} (hr : s.Running)
include hr

/-- The first cause that applies to a word is latched, with the port and the word, and nothing else changes (R225,
R226). -/
theorem runWord_of_cause {c : FaultCause} (hc : (causesOf s.cfg w s.port).head? = some c) :
    runWord w s = .next (s.latch c.code (portCode s.port) w) := by
  rw [head?_causesOf] at hc
  split at hc
  next hp =>
    cases hc
    exact runWord_of_wrongPort hr hp
  next hp =>
    have hp : s.port ∈ opcodePorts (fieldOp w) := not_not.mp hp
    split at hc
    next hz =>
      cases hc
      exact runWord_of_reservedField hr hp hz
    next hz =>
      have hz : w &&& zeroMask (fieldOp w) = 0 := not_not.mp hz
      have hw : encode (instrOf w) = w := encode_instrOf hz
      rw [runWord_of_zeroFields hz, exec_of_operandCause hr (hw.symm ▸ hp) hc, hw]

/-- Where no cause applies to a word, no fault is recorded. -/
theorem runWord_of_no_cause (hc : causesOf s.cfg w s.port = []) {t : State} (h : runWord w s = .next t) :
    t.faultCause = 0 := by
  have hhead := head?_causesOf s.cfg w s.port
  rw [hc, List.head?_nil] at hhead
  split at hhead
  next => cases hhead
  next hp =>
    split at hhead
    next => cases hhead
    next hz =>
      have hz : w &&& zeroMask (fieldOp w) = 0 := not_not.mp hz
      rw [runWord_of_zeroFields hz] at h
      exact exec_faultCause_of_wellFormed hr (by rw [encode_instrOf hz]; exact not_not.mp hp)
        ((operandCause_eq_none_iff _ _).mp hhead.symm) h

end Causes

/-! ### Obligations -/

/-- Settles O5: each row of R95 has its opcode's ports (`opcodeMap_row`), and every opcode has a row. -/
theorem wrongPortFaults : Obligations.WrongPortFaults := by
  unfold Obligations.WrongPortFaults
  intro w s hr _ hrows
  obtain ⟨r, hmem, hop⟩ := exists_row (fieldOp w)
  obtain ⟨-, -, -, hports⟩ := opcodeMap_row r hmem
  have hp : s.port ∉ opcodePorts (fieldOp w) := by
    rw [← hop, ← hports]
    exact hrows r hmem hop
  exact runWord_of_wrongPort hr hp

/-- Settles O6: a word that does not select the row of its opcode has a zero field that is not zero (`selects_iff`). -/
theorem reservedFieldFaults : Obligations.ReservedFieldFaults := by
  unfold Obligations.ReservedFieldFaults
  intro w s hr _ ⟨r, hmem, hop, hp, hsel⟩
  obtain ⟨-, -, -, hports⟩ := opcodeMap_row r hmem
  rw [hports, hop] at hp
  have hz : w &&& zeroMask (fieldOp w) ≠ 0#16 := fun hz => by
    rw [(selects_iff hmem w).mpr ⟨hop, hz⟩] at hsel
    cases hsel
  exact runWord_of_reservedField hr hp hz

/-- Settles O7: the order of `causesOf` is the order of the checks (`head?_causesOf`). -/
theorem firstCauseIsRecorded : Obligations.FirstCauseIsRecorded := by
  unfold Obligations.FirstCauseIsRecorded
  intro w s hr
  cases hc : causesOf s.cfg w s.port with
  | nil => exact fun t h => runWord_of_no_cause hr hc h
  | cons c cs => exact runWord_of_cause hr (by rw [hc, List.head?_cons])

/-- Settles O8: a command's rule raises a cause exactly where the command is not well formed
(`operandCause_eq_none_iff`). -/
theorem wellFormedCommandsDoNotFault : Obligations.WellFormedCommandsDoNotFault := by
  unfold Obligations.WellFormedCommandsDoNotFault
  intro i s hr hp
  refine ⟨fun hwf t h => exec_faultCause_of_wellFormed hr hp hwf h, fun hwf => ?_⟩
  have hne : operandCause s.cfg i ≠ none := fun hnone => by
    rw [(operandCause_eq_none_iff s.cfg i).mp hnone] at hwf
    cases hwf
  obtain ⟨c, hc⟩ := Option.ne_none_iff_exists'.mp hne
  exact ⟨_, exec_of_operandCause hr hp hc, c.code_bounds.1⟩

/-- Settles O9: only a port's own word records a fault, and of that word the first cause is latched
(`runWord_of_cause`). -/
theorem faultEntryWritesOnlyTheLatch : Obligations.FaultEntryWritesOnlyTheLatch := by
  unfold Obligations.FaultEntryWritesOnlyTheLatch
  intro a s t h hs ht
  obtain ⟨hl, ⟨-, rfl⟩ | ⟨-, rfl⟩ | ⟨-, -, -, rfl⟩ | ⟨-, -, -, rfl⟩ | ⟨q, w, rfl, -, hw, hrun⟩⟩ := agentStep_cases h
  · exact absurd rfl ht
  · exact absurd hs ht
  · exact absurd hs ht
  · exact absurd hs ht
  · refine ⟨q, w, rfl, hw, ?_⟩
    have hr : (s.setPort q).Running := ⟨hl, hs⟩
    cases hc : causesOf (s.setPort q).cfg w (s.setPort q).port with
    | nil => exact absurd (runWord_of_no_cause hr hc hrun) ht
    | cons c cs =>
      rw [runWord_of_cause hr (by rw [hc, List.head?_cons])] at hrun
      cases hrun
      rfl

/-- Settles O10: with a fault recorded no agent is enabled but the reset input (`agentStep_of_faulted`), and every
command holds at its acceptance (`exec_eq_accept`). -/
theorem faultedBlockOnlyResets : Obligations.FaultedBlockOnlyResets := by
  unfold Obligations.FaultedBlockOnlyResets
  intro a s hl hf
  refine ⟨agentStep_of_faulted hl hf, ⟨s.resetStep, by simp [agentStep, hl], rfl⟩, fun i => ?_⟩
  obtain ⟨body, hbody⟩ := exec_eq_accept i
  rw [hbody, accept_of_faulted hl hf]

/-- Settles O4: for a word of a reserved opcode ILLEGAL_OPCODE is the first cause (`runWord_of_cause`), and a reserved
command's rule raises it. -/
theorem reservedOpcodesFault : Obligations.ReservedOpcodesFault := by
  unfold Obligations.ReservedOpcodesFault
  refine ⟨fun w s hr hop => ?_, fun rest s hr => ⟨?_, ?_, ?_⟩⟩
  · have hge : 13 ≤ (fieldOp w).toNat := by obtain h | h | h := hop <;> simp [h]
    exact runWord_of_cause (c := .illegalOpcode) hr (by simp [causesOf, hge])
  all_goals exact exec_of_operandCause (c := .illegalOpcode) hr (by cases s.port <;> simp) rfl

end Sys2Proof.Machine
end

section
/-! SUPPORT. The parts of the invariant outside the queue, the window, the planes and the latch, under every command and
every agent's step (10_state.md R33–R37, R44, R45, 60_exceptions.md R220), with the obligation on the invariant. -/

namespace Sys2Proof.Machine

/-! ### The invariant outside the queue -/

/-- The parts of the invariant outside the queue: the window, the planes and the fault latch. -/
structure State.DataInv (s : State) : Prop where
  window : s.WindowInv
  planes : s.PlaneInv
  fault : s.FaultInv

theorem State.Inv.data {s : State} (h : s.Inv) : s.DataInv := ⟨h.window, h.planes, h.fault⟩

/-- The elements that those parts of the invariant read are the same in two states. -/
structure State.SameData (s t : State) : Prop where
  cfg : t.cfg = s.cfg
  win : t.win = s.win
  sum : t.sum = s.sum
  widx : t.widx = s.widx
  plane : t.plane = s.plane
  faultCause : t.faultCause = s.faultCause
  faultPort : t.faultPort = s.faultPort
  faultWord : t.faultWord = s.faultWord

theorem State.sameData_respond (s : State) (v : Response) : s.SameData (s.respond v) := by
  constructor <;> simp

theorem State.sameData_appended (s : State) (d : Byte) : s.SameData (s.appended d) := by
  rw [State.appended_eq]
  constructor <;> rfl

theorem State.sameData_popped (s : State) : s.SameData s.popped := by
  rw [State.popped_eq]
  constructor <;> rfl

theorem State.sameData_advance (s : State) : s.SameData s.advance := by
  constructor <;> simp

/-- A position that no digit is wired to is not the position of a legal digit (R32). -/
theorem ne_permAt_of_unmapped {c : Config} (hc : c.legal = true) {i : Nat} (hi : 1 ≤ i ∧ i ≤ c.digits) {p : Fin 8}
    (hp : p ∉ c.perm) : p ≠ c.permAt i :=
  fun he => hp (he ▸ List.mem_of_getElem? (permAt_of_digit hc hi.1 hi.2))

namespace State.DataInv

variable {s t : State} (h : s.DataInv)
include h

theorem congr (hs : s.SameData t) : t.DataInv := by
  obtain ⟨⟨hlen, hidx, hsum⟩, hpl, ⟨hcause, hport, hclear⟩⟩ := h
  refine ⟨⟨?_, ?_, ?_⟩, ?_, ⟨?_, ?_, ?_⟩⟩
  · rw [hs.win, hs.cfg, hlen]
  · rw [hs.widx, hs.cfg]
    exact hidx
  · rw [hs.sum, hs.win, hsum]
  · rw [State.PlaneInv, hs.cfg, hs.plane]
    exact hpl
  · rw [hs.faultCause]
    exact hcause
  · rw [hs.faultPort]
    exact hport
  · rw [hs.faultCause, hs.faultPort, hs.faultWord]
    exact hclear

theorem advance : s.advance.DataInv := h.congr s.sameData_advance

theorem respond (v : Response) : (s.respond v).DataInv := h.congr (s.sameData_respond v)

theorem setChecksum (a b : Byte) : (s.setChecksum a b).DataInv := h.congr (by constructor <;> rfl)

theorem emitAll (e : Sender) (ps : List (Byte × Byte)) : (s.emitAll e ps).DataInv := h.congr (by constructor <;> rfl)

/-- A fault entry latches a cause of R220 and a port's code. -/
theorem of_untouched (hu : Untouched s t) : t.DataInv := by
  obtain ⟨-, rfl⟩ | ⟨-, c, w, rfl⟩ := hu
  · exact h
  · obtain ⟨hne, hle⟩ := c.code_bounds
    exact ⟨⟨h.window.length_eq, h.window.widx_lt, h.window.sum_eq⟩, h.planes,
      ⟨hle, portCode_ne s.port, fun h0 => absurd h0 hne⟩⟩

/-- New planes whose unmapped bits are 0 (R45). -/
theorem setPlane {pl : Vector Byte 8} (hpl : ∀ k p : Fin 8, p ∉ s.cfg.perm → pl[k].getLsbD p.val = false) :
    (s.setPlane pl).DataInv :=
  ⟨⟨h.window.length_eq, h.window.widx_lt, h.window.sum_eq⟩, hpl,
    ⟨h.fault.cause_le, h.fault.port_ne, h.fault.clear⟩⟩

/-- A digit's column is mapped (R32, R170). -/
theorem writeDigit (hc : s.cfg.legal = true) {i : Index} (hi : digitLegal s.cfg i = true) (m : Byte) :
    (writeDigit i m s).DataInv := by
  refine h.setPlane fun k p hp => ?_
  rw [getLsbD_setColumn, if_neg (ne_permAt_of_unmapped hc ((digitLegal_iff s.cfg i).mp hi) hp)]
  exact h.planes k p hp

theorem setPlane_zeroPlanes : (s.setPlane zeroPlanes).DataInv := by
  refine h.setPlane fun k p _ => ?_
  rw [getElem_zeroPlanes]
  exact BitVec.getLsbD_zero

/-- The tick's digit is a legal one (R176). -/
theorem setPlane_noSignalPlanes (hc : s.cfg.legal = true) (t : Byte) :
    (s.setPlane (noSignalPlanes (s.cfg.permAt (tickDigit s.cfg t)))).DataInv := by
  refine h.setPlane fun k p hp => ?_
  rw [getLsbD_noSignalPlanes]
  simp [ne_permAt_of_unmapped hc (tickDigit_le hc t) hp]

theorem emitIntensity_integrate (hc : s.cfg.legal = true) (r : Sample) :
    (emitIntensity (integrate r s)).DataInv := by
  obtain ⟨hlen, hidx, hsum⟩ := h.window.integrate hc r
  exact ⟨⟨hlen, hidx, hsum⟩, h.planes, ⟨h.fault.cause_le, h.fault.port_ne, h.fault.clear⟩⟩

/-- Every command keeps the window exact, the unmapped bits 0 and the latch legal. -/
theorem of_exec {i : Instr} (hx : exec i s = .next t) : t.DataInv := by
  cases i with
  | qAppend d =>
    obtain hu | ⟨-, -, ⟨-, rfl⟩ | ⟨-, rfl⟩⟩ := execQAppend_cases hx
    · exact h.of_untouched hu
    · exact h.advance
    · exact (h.congr (s.sameData_appended d)).advance
  | qPop =>
    obtain hu | ⟨-, -, ⟨-, rfl⟩ | ⟨-, v, -, rfl⟩⟩ := execQPop_cases hx
    · exact h.of_untouched hu
    · exact h
    · exact ((h.congr s.sameData_popped).respond (.byte v)).advance
  | qIsEmpty | ckRead | ckReset | ckUpdate =>
    obtain hu | ⟨v, -, rfl⟩ | ⟨a, b, -, rfl⟩ := readAndChecksum_cases (by simp) hx
    · exact h.of_untouched hu
    · exact (h.respond v).advance
    · exact (h.setChecksum a b).advance
  | tpSetDigit k m =>
    obtain hu | ⟨hr, -, hk, rfl⟩ := execTpSetDigit_cases hx
    · exact h.of_untouched hu
    · exact (h.writeDigit hr.1 hk m).advance
  | tpSetDigitBcd k v =>
    obtain hu | ⟨hr, -, hk, -, rfl⟩ := execTpSetDigitBcd_cases hx
    · exact h.of_untouched hu
    · exact (h.writeDigit hr.1 hk _).advance
  | tpClear =>
    obtain hu | ⟨-, -, rfl⟩ := execTpClear_cases hx
    · exact h.of_untouched hu
    · exact h.setPlane_zeroPlanes.advance
  | tpFlush =>
    obtain hu | ⟨-, -, rfl⟩ := execTpFlush_cases hx
    · exact h.of_untouched hu
    · exact (h.emitAll _ _).advance
  | tpInit =>
    obtain hu | ⟨-, -, rfl⟩ := execTpInit_cases hx
    · exact h.of_untouched hu
    · exact (h.emitAll _ _).advance
  | tpShowNoSignal v =>
    obtain hu | ⟨hr, -, rfl⟩ := execTpShowNoSignal_cases hx
    · exact h.of_untouched hu
    · exact (h.setPlane_noSignalPlanes hr.1 v).advance
  | maSample r =>
    obtain hu | ⟨hr, -, rfl⟩ := execMaSample_cases hx
    · exact h.of_untouched hu
    · exact (h.emitIntensity_integrate hr.1 r).advance
  | reservedD x => exact h.of_untouched (execReservedD_cases hx)
  | reservedE x => exact h.of_untouched (execReservedE_cases hx)
  | reservedF x => exact h.of_untouched (execReservedF_cases hx)

/-- So does every agent's step but a reset. -/
theorem of_agentStep {a : Agent} (ha : a ≠ .reset) (hx : agentStep a s = .next t) : t.DataInv := by
  obtain ⟨-, ⟨hreset, -⟩ | ⟨-, rfl⟩ | ⟨-, -, -, rfl⟩ | ⟨-, -, -, rfl⟩ | ⟨q, w, -, -, -, hw⟩⟩ := agentStep_cases hx
  · exact absurd hreset ha
  · exact h
  · exact h.congr (by constructor <;> rfl)
  · exact h.congr (by constructor <;> rfl)
  · have hq : (s.setPort q).DataInv := h.congr (by constructor <;> rfl)
    obtain hu | ⟨i, -, hi⟩ := runWord_cases hw
    · exact hq.of_untouched hu
    · exact hq.of_exec hi

end State.DataInv

/-! ### The whole invariant -/

theorem State.Inv.of_parts {s : State} (hq : s.QueueInv) (hd : s.DataInv) : s.Inv :=
  ⟨hq, hd.window, hd.planes, hd.fault⟩

/-- The invariant reads neither the history, the streams nor the schedule. -/
theorem State.Inv.congr {s t : State} (h : s.Inv) (hq : s.SameQueue t) (hd : s.SameData t) : t.Inv :=
  .of_parts (h.queue.congr hq) (h.data.congr hd)

theorem State.Inv.takeTurn {s : State} (h : s.Inv) : s.takeTurn.Inv :=
  h.congr (by constructor <;> rfl) (by constructor <;> rfl)

/-- A reset establishes the invariant, whatever the state was (R41, R250). -/
theorem inv_resetStep {s : State} (hc : s.cfg.legal = true) : s.resetStep.Inv :=
  (inv_resetWith hc).congr (by constructor <;> rfl) (by constructor <;> rfl)

theorem State.Inv.of_agentStep {a : Agent} {s t : State} (h : s.Inv) (hx : agentStep a s = .next t) : t.Inv := by
  by_cases ha : a = .reset
  · subst ha
    obtain ⟨hc, -⟩ := agentStep_cases hx
    have ht : t = s.resetStep := by simpa [agentStep, hc] using hx.symm
    exact ht ▸ inv_resetStep hc
  · obtain ⟨rs, -, -, hq⟩ := agentStep_stepsQueue ha hx
    exact .of_parts (hq.queueInv h.queue) (h.data.of_agentStep ha hx)

/-- Settles O14: a step takes the turn and then one agent's step, which keeps the queue's part of the invariant
(`QueueStep.queueInv`) and the rest (`State.DataInv.of_agentStep`), or is a reset (`inv_resetStep`). -/
theorem stepKeepsInvariant : Obligations.StepKeepsInvariant := by
  unfold Obligations.StepKeepsInvariant
  intro s t h hx
  exact h.takeTurn.of_agentStep hx

end Sys2Proof.Machine
end

section
/-! SUPPORT. The reset step as one equation (10_state.md R41, 70_reset_and_hazards.md R250, R251), and how a step moves
the display's start-up (R254, R255), with the obligations on them. -/

namespace Sys2Proof.Machine

/-! ### The reset step -/

theorem agentStep_reset {s : State} (hc : s.cfg.legal = true) : agentStep .reset s = .next s.resetStep := if_pos hc

/-! ### A burst in the history of the display -/

/-- Of the pairs of one sender the first alone moves the start-up, so a burst moves it as one pair does. -/
theorem startUp_burst (h : List OutEvent) (e : Sender) {ps : List (Byte × Byte)} (hps : ps ≠ []) :
    startUp (h ++ ps.map fun x => OutEvent.pair e x.1 x.2) = startUpEvent (startUp h) (.pair e 0 0) := by
  have hagain (u : StartUp) (a d : Byte) :
      startUpEvent (startUpEvent u (.pair e 0 0)) (.pair e a d) = startUpEvent u (.pair e 0 0) := by
    cases e <;> cases u <;> rfl
  have hrest (u : StartUp) (qs : List (Byte × Byte)) :
      (qs.map fun x => OutEvent.pair e x.1 x.2).foldl startUpEvent (startUpEvent u (.pair e 0 0)) =
        startUpEvent u (.pair e 0 0) := by
    induction qs with
    | nil => rfl
    | cons q qs ih => rw [List.map_cons, List.foldl_cons, hagain, ih]
  obtain ⟨p, qs, rfl⟩ := List.exists_cons_of_ne_nil hps
  have hfirst (u : StartUp) : startUpEvent u (.pair e p.1 p.2) = startUpEvent u (.pair e 0 0) := by cases e <;> rfl
  rw [startUp_append, List.map_cons, List.foldl_cons, hfirst, hrest]

theorem startUp_initPairs (h : List OutEvent) (c : Config) :
    startUp (h ++ (initPairs c).map fun x => OutEvent.pair .init x.1 x.2) =
      if startUp h = .unknown then .initialised else startUp h :=
  startUp_burst h .init (by simp [initPairs])

theorem startUp_flushPairs (h : List OutEvent) (pl : Vector Byte 8) :
    startUp (h ++ (flushPairs pl).map fun x => OutEvent.pair .flush x.1 x.2) =
      if startUp h = .initialised then .shown else startUp h :=
  startUp_burst h .flush (by simp [flushPairs])

/-- After the burst of `TP_FLUSH` the register of each segment holds its plane, whatever it held (R173, R179). -/
theorem driverRegister_flushPairs (h : List OutEvent) (pl : Vector Byte 8) (k : Fin 8) :
    driverRegister (h ++ (flushPairs pl).map fun x => OutEvent.pair .flush x.1 x.2) (BitVec.ofNat 8 (k.val + 1)) =
      some pl[k] := by
  rw [driverRegister_append]
  fin_cases k <;> rfl

/-- Before the display is known it shows no plane. -/
theorem shownPlane_of_ne_shown {h : List OutEvent} (hne : startUp h ≠ .shown) (k : Fin 8) : shownPlane h k = none :=
  if_neg hne

/-! ### How a step moves the start-up -/

/-- A command that is none of the three that emit leaves `OUT` as it is (R173, R174, R200). -/
theorem exec_out_of_silent {i : Instr} {s t : State} (hi : i ≠ .tpInit) (hf : i ≠ .tpFlush)
    (hs : ∀ r, i ≠ .maSample r) (h : exec i s = .next t) : t.out = s.out := by
  cases i with
  | qAppend d =>
    obtain ⟨-, -, -, -, -, -, -, -, -, -, hout, -⟩ := appendFrame d s t h
    exact hout
  | qPop =>
    obtain ⟨-, -, -, -, -, -, -, -, -, hout, -⟩ := popFrame s t h
    exact hout
  | qIsEmpty | ckReset | ckUpdate _ | ckRead =>
    obtain ⟨-, -, -, -, -, -, hout, -⟩ := readAndChecksumFrame _ s t (by simp) h
    exact hout
  | tpSetDigit _ _ | tpSetDigitBcd _ _ | tpClear | tpFlush | tpInit | tpShowNoSignal _ =>
    obtain ⟨-, -, -, -, -, -, -, -, -, -, hout⟩ := transposerFrame _ s t (by simp) h
    exact hout hf hi
  | maSample _ | reservedD _ | reservedE _ | reservedF _ =>
    obtain ⟨-, -, -, -, -, -, -, -, -, hlast⟩ := sampleAndReservedFrame _ s t (by simp) h
    obtain ⟨-, hout, -⟩ := hlast hs
    exact hout

theorem execMaSample_startUp {r : Sample} {s t : State} (h : execMaSample r s = .next t) :
    startUp t.out = startUp s.out := by
  obtain hu | ⟨-, -, rfl⟩ := execMaSample_cases h
  · rw [hu.out]
  · rw [State.advance_out, emitIntensity_eq, startUp_sample, integrate_eq]

/-- Everything a step can do to the start-up: a reset takes it back, and the two commands of port M move it on, each
from its own stage. -/
inductive StartUpStep (a : Agent) (s t : State) : Prop where
  | kept : startUp t.out = startUp s.out → StartUpStep a s t
  | lost : startUp t.out = .unknown → StartUpStep a s t
  | begun : a = .port .m → s.streamM.head = some (encode .tpInit) → startUp s.out = .unknown →
      startUp t.out = .initialised → StartUpStep a s t
  | shown : a = .port .m → s.streamM.head = some (encode .tpFlush) → startUp s.out = .initialised →
      startUp t.out = .shown → StartUpStep a s t

section Port

variable {s t : State} {q : Port}

theorem tpInit_startUpStep (hw : (s.stream q).head = some (encode .tpInit))
    (h : exec .tpInit (s.setPort q) = .next t) : StartUpStep (.port q) s t := by
  obtain hu | ⟨-, hq, ht⟩ := execTpInit_cases h
  · exact .kept (congrArg startUp hu.out)
  · obtain rfl : q = .m := hq
    have hout : startUp t.out = if startUp s.out = .unknown then .initialised else startUp s.out := by
      rw [ht, State.advance_out]
      exact startUp_initPairs s.out s.cfg
    split at hout
    next hunknown => exact .begun rfl hw hunknown hout
    next => exact .kept hout

theorem tpFlush_startUpStep (hw : (s.stream q).head = some (encode .tpFlush))
    (h : exec .tpFlush (s.setPort q) = .next t) : StartUpStep (.port q) s t := by
  obtain hu | ⟨-, hq, ht⟩ := execTpFlush_cases h
  · exact .kept (congrArg startUp hu.out)
  · obtain rfl : q = .m := hq
    have hout : startUp t.out = if startUp s.out = .initialised then .shown else startUp s.out := by
      rw [ht, State.advance_out]
      exact startUp_flushPairs s.out s.plane
    split at hout
    next hinit => exact .shown rfl hw hinit hout
    next => exact .kept hout

/-- A word presented on a port. -/
theorem runWord_startUpStep {w : Word} (hw : (s.stream q).head = some w) (h : runWord w (s.setPort q) = .next t) :
    StartUpStep (.port q) s t := by
  obtain hu | ⟨i, hd, hi⟩ := runWord_cases h
  · exact .kept (congrArg startUp hu.out)
  · obtain ⟨hword, -⟩ := decoderFollowsOpcodeMap
    rw [← hword w i hd] at hw
    by_cases hinit : i = .tpInit
    · subst hinit
      exact tpInit_startUpStep hw hi
    by_cases hflush : i = .tpFlush
    · subst hflush
      exact tpFlush_startUpStep hw hi
    by_cases hsample : ∃ r, i = .maSample r
    · obtain ⟨r, rfl⟩ := hsample
      exact .kept (execMaSample_startUp (s := s.setPort q) hi)
    · exact .kept (congrArg startUp (exec_out_of_silent (s := s.setPort q) hinit hflush (not_exists.mp hsample) hi))

end Port

theorem agentStep_startUpStep {a : Agent} {s t : State} (h : agentStep a s = .next t) : StartUpStep a s t := by
  obtain ⟨-, ⟨-, rfl⟩ | ⟨-, rfl⟩ | ⟨-, -, -, rfl⟩ | ⟨-, -, -, rfl⟩ | ⟨q, w, rfl, -, hw, hrun⟩⟩ := agentStep_cases h
  · exact .lost (startUp_resetMark s.out)
  · exact .kept rfl
  · exact .kept rfl
  · exact .kept rfl
  · exact runWord_startUpStep hw hrun

/-! ### Obligations -/

/-- Settles O11: a reset step is the state after reset over the histories, the streams and the model's own fields. -/
theorem resetStepSetsEveryElement : Obligations.ResetStepSetsEveryElement := by
  unfold Obligations.ResetStepSetsEveryElement
  intro s hc
  exact agentStep_reset hc

/-- Settles O50: the two bursts are the last of the history, so that the start-up is past both and each register holds
its plane; every other step is one of `StartUpStep`. -/
theorem displayKnownAfterInitAndFlush : Obligations.DisplayKnownAfterInitAndFlush := by
  unfold Obligations.DisplayKnownAfterInitAndFlush
  refine ⟨fun s t u k hr hp hinit hflush => ?known, fun h k hne => shownPlane_of_ne_shown hne k,
    fun a s t h hs ht => ?onlyFlush, fun a s t h hs ht => ?onlyInit, fun s t k h => ?afterReset⟩
  case known =>
    cases hinit.symm.trans (exec_tpInit hr hp)
    cases hflush.symm.trans (exec_tpFlush hr hp)
    have hshown : startUp ((s.out ++ (initPairs s.cfg).map fun x => OutEvent.pair .init x.1 x.2) ++
        (flushPairs s.plane).map fun x => OutEvent.pair .flush x.1 x.2) = .shown := by
      rw [startUp_flushPairs, startUp_initPairs]
      cases startUp s.out <;> rfl
    exact (if_pos hshown).trans (driverRegister_flushPairs _ s.plane k)
  case onlyFlush =>
    cases agentStep_startUpStep h with
    | kept hkept => exact absurd (hkept ▸ ht) hs
    | lost hlost => simp [hlost] at ht
    | begun _ _ _ hbegun => simp [hbegun] at ht
    | shown ha hw hinit _ => exact ⟨ha, hw, hinit⟩
  case onlyInit =>
    cases agentStep_startUpStep h with
    | kept hkept => exact absurd (hkept.trans hs) ht
    | lost hlost => exact absurd hlost ht
    | begun ha hw _ _ => exact ⟨ha, hw⟩
    | shown _ _ hinit _ => simp [hs] at hinit
  case afterReset =>
    obtain ⟨hc, -⟩ := agentStep_cases h
    rw [agentStep_reset hc] at h
    cases h
    have hunknown : startUp s.resetStep.out = .unknown := startUp_resetMark s.out
    exact shownPlane_of_ne_shown (by simp [hunknown]) k

end Sys2Proof.Machine
end

section
/-! SUPPORT. The Gray code as a linear map with its inverse, and the full and empty tests in its domain
(40_byte_queue.md R124, R127, R128), with the obligations on them. -/

namespace Sys2Proof.Machine

/-! ### The Gray code and its inverse -/

/-- The code of a sum without carries is the sum of the codes. -/
theorem gray_xor (a b : Nat) : gray (a ^^^ b) = gray a ^^^ gray b := by
  simp only [gray, Nat.shiftRight_xor_distrib]
  ac_rfl

theorem gray_div_two (b : Nat) : gray b / 2 = gray (b / 2) := by
  simpa only [Nat.shiftRight_one] using gray_shiftRight b

theorem gray_mod_two (b : Nat) : gray b % 2 = (b + b / 2) % 2 := by
  rw [gray, Nat.shiftRight_one, Nat.xor_mod_two_eq]

/-- Dropping the lowest bit and decoding commute; this is the recursion of `bin`. -/
theorem bin_succ_div_two (n g : Nat) : bin (n + 1) g / 2 = bin n (g / 2) := by
  have hbit : (bin n (g / 2) % 2) ^^^ (g % 2) < 2 :=
    Nat.xor_lt_two_pow (n := 1) (Nat.mod_lt _ two_pos) (Nat.mod_lt _ two_pos)
  rw [bin, Nat.shiftRight_one]
  omega

theorem bin_succ_mod_two (n g : Nat) : bin (n + 1) g % 2 = (bin n (g / 2) + g) % 2 := by
  rw [bin, Nat.shiftRight_one, Nat.mul_add_mod, Nat.xor_mod_two_eq, ← Nat.add_mod]

/-- `gray` undoes `bin` on the codes of its width (R124). -/
theorem gray_bin {n g : Nat} (h : g < 2 ^ n) : gray (bin n g) = g := by
  induction n generalizing g with
  | zero =>
    obtain rfl : g = 0 := by omega
    rfl
  | succ n ih =>
    have hupper : gray (bin (n + 1) g) / 2 = g / 2 := by
      rw [gray_div_two, bin_succ_div_two, ih (by omega)]
    have hlow : gray (bin (n + 1) g) % 2 = g % 2 := by
      have hbin := bin_succ_mod_two n g
      rw [gray_mod_two, bin_succ_div_two]
      omega
    omega

/-- Two values of one width with one code are the same. -/
theorem gray_inj {n a b : Nat} (ha : a < 2 ^ n) (hb : b < 2 ^ n) : gray a = gray b ↔ a = b :=
  ⟨fun h => by rw [← bin_gray ha, h, bin_gray hb], congrArg gray⟩

/-- The inverse bit by bit: each bit is the sum of the bit above it and the code's (R124). -/
theorem testBit_bin {n g : Nat} (h : g < 2 ^ n) (i : Nat) :
    (bin n g).testBit i = ((bin n g).testBit (i + 1) ^^ g.testBit i) := by
  have hg : g.testBit i = ((bin n g).testBit i ^^ (bin n g).testBit (i + 1)) := by
    rw [Nat.add_comm i, ← Nat.testBit_shiftRight, ← Nat.testBit_xor, ← gray, gray_bin h]
  rw [hg, Bool.xor_left_comm, Bool.xor_self, Bool.xor_false]

theorem gray_xor_gray_div_two (a b : Nat) : (gray a ^^^ gray b) / 2 = gray (a / 2) ^^^ gray (b / 2) := by
  rw [Nat.xor_div_two, gray_div_two, gray_div_two]

theorem gray_xor_gray_mod_two (a b : Nat) : (gray a ^^^ gray b) % 2 = (a + a / 2 + (b + b / 2)) % 2 := by
  rw [Nat.xor_mod_two_eq, Nat.add_mod, gray_mod_two, gray_mod_two, ← Nat.add_mod]

/-- Consecutive values, the last of the width and 0 among them, have codes that differ in one bit (R124). An even value
and the next differ in the lowest bit only; an odd value and the next agree in it, and above it stand the codes of
consecutive values of one bit less. -/
theorem gray_succ_xor {n b : Nat} (h : b < 2 ^ (n + 1)) :
    ∃ k ≤ n, gray b ^^^ gray ((b + 1) % 2 ^ (n + 1)) = 2 ^ k := by
  induction n generalizing b with
  | zero =>
    obtain rfl | rfl : b = 0 ∨ b = 1 := by omega
    · exact ⟨0, le_rfl, rfl⟩
    · exact ⟨0, le_rfl, rfl⟩
  | succ n ih =>
    obtain ⟨c, rfl | rfl⟩ := b.even_or_odd'
    · refine ⟨0, Nat.zero_le _, ?_⟩
      have hupper := gray_xor_gray_div_two (2 * c) (2 * c + 1)
      have hlow := gray_xor_gray_mod_two (2 * c) (2 * c + 1)
      rw [show (2 * c + 1) / 2 = 2 * c / 2 by omega, Nat.xor_self] at hupper
      rw [Nat.mod_eq_of_lt (by omega)]
      omega
    · have hnext : (2 * c + 1 + 1) % 2 ^ (n + 2) = 2 * ((c + 1) % 2 ^ (n + 1)) := by
        rw [Nat.pow_succ', ← Nat.mul_mod_mul_left]
        rfl
      have hparity : (c + 1) % 2 ^ (n + 1) % 2 = (c + 1) % 2 := Nat.mod_mod_of_dvd _ (Dvd.intro_left _ rfl)
      obtain ⟨k, hk, hone⟩ := ih (b := c) (by omega)
      have hupper := gray_xor_gray_div_two (2 * c + 1) (2 * ((c + 1) % 2 ^ (n + 1)))
      have hlow := gray_xor_gray_mod_two (2 * c + 1) (2 * ((c + 1) % 2 ^ (n + 1)))
      rw [show (2 * c + 1) / 2 = c by omega, Nat.mul_div_cancel_left _ two_pos] at hupper hlow
      refine ⟨k + 1, by omega, ?_⟩
      rw [hnext, pow_succ 2 k]
      omega

/-- Settles O29: `gray` and `bin` undo each other (`bin_gray`, `gray_bin`), and so a bit of the one is a sum of two bits
of the other (`testBit_bin`); for consecutive values `gray_succ_xor`. -/
theorem grayCodeLaws : Obligations.GrayCodeLaws := by
  unfold Obligations.GrayCodeLaws
  refine ⟨fun _ => rfl, fun n g h => ⟨bin_lt _ _, ?top, fun i _ => testBit_bin h i⟩,
    fun _ _ h => ⟨gray_lt h, bin_gray h⟩, fun _ _ => gray_bin, fun _ _ => gray_succ_xor, by decide⟩
  rw [testBit_bin h, Nat.testBit_lt_two_pow (bin_lt _ _), Bool.false_xor]

/-! ### The tests in the Gray domain -/

/-- Half way round the circle is the change of the top bit. -/
theorem add_two_pow_mod_eq_xor {q r : Nat} (h : r < 2 ^ (q + 1)) : (r + 2 ^ q) % 2 ^ (q + 1) = r ^^^ 2 ^ q := by
  refine Nat.eq_of_testBit_eq fun i => ?_
  rw [Nat.testBit_mod_two_pow, Nat.testBit_xor, Nat.testBit_two_pow, Nat.add_comm r]
  obtain hlt | rfl | hgt := lt_trichotomy i q
  · simp [Nat.testBit_two_pow_add_gt hlt, hlt.ne', Nat.lt_succ_of_lt hlt]
  · simp [Nat.testBit_two_pow_add_eq]
  · have htop : r.testBit i = false :=
      Nat.testBit_lt_two_pow (h.trans_le (Nat.pow_le_pow_right two_pos hgt))
    simp [htop, hgt.ne, Nat.not_lt.mpr hgt]

/-- The mask of R127: the code of the circle's half has ones in bits `QAW` and `QAW - 1`. -/
theorem gray_two_pow_succ (q : Nat) : gray (2 ^ (q + 1)) = 2 ^ (q + 1) + 2 ^ q := by
  have hhalf : 2 ^ (q + 1) >>> 1 = 2 ^ q := by
    rw [Nat.shiftRight_one, Nat.pow_succ, Nat.mul_div_cancel _ two_pos]
  have hlt : 2 ^ q < 2 ^ (q + 1) := Nat.pow_lt_pow_succ one_lt_two
  have hsum := add_two_pow_mod_eq_xor (q := q + 1) (r := 2 ^ q) (by omega)
  rw [gray, hhalf, Nat.xor_comm, ← hsum, Nat.mod_eq_of_lt (by omega), Nat.add_comm]

/-- A difference on the circle tells how far the one value is past the other. -/
theorem ringSub_eq_iff {m a b k : Nat} (ha : a < m) (hb : b < m) (hk : k < m) :
    ringSub m a b = k ↔ a = (b + k) % m := by
  constructor
  · rintro rfl
    exact (add_ringSub_mod ha hb).symm
  · rintro rfl
    rw [ringSub, Nat.mod_add_mod, show b + k + (m - b) = k + m by omega, Nat.add_mod_right, Nat.mod_eq_of_lt hk]

/-- A pointer is the view where its code is the view's register. -/
theorem gray_eq_iff_eq_view {c : Config} {p v : Nat} (hp : p < c.ringSize) (hv : v < c.ringSize) :
    gray p = v ↔ p = bin (c.qaw + 1) v := by
  rw [Config_ringSize_eq] at hp hv
  rw [← gray_inj hp (bin_lt _ _), gray_bin hv]

theorem State.producerFull_eq_gray {s : State} (hq : 1 ≤ s.cfg.qaw) (hw : s.wptr < s.cfg.ringSize)
    (hv : s.rqSync < s.cfg.ringSize) : s.producerFull = s.producerFullGray := by
  have hmask : gray (2 ^ s.cfg.qaw) = 2 ^ s.cfg.qaw + 2 ^ (s.cfg.qaw - 1) := by
    simpa [Nat.sub_add_cancel hq] using gray_two_pow_succ (s.cfg.qaw - 1)
  have hview : gray s.readView = s.rqSync := gray_bin (Config_ringSize_eq s.cfg ▸ hv)
  have hwidth : s.readView < 2 ^ (s.cfg.qaw + 1) := bin_lt _ _
  have hpos := Config_capacity_pos s.cfg
  rw [Bool.eq_iff_iff, State.producerFull, State.producerFullGray, beq_iff_eq, beq_iff_eq]
  calc s.producerOccupancy = s.cfg.capacity
      ↔ s.wptr = (s.readView + s.cfg.capacity) % s.cfg.ringSize :=
        ringSub_eq_iff hw s.readView_lt (by rw [Config.ringSize]; omega)
    _ ↔ s.wptr = s.readView ^^^ 2 ^ s.cfg.qaw := by
        rw [Config_ringSize_eq, Config.capacity, add_two_pow_mod_eq_xor hwidth]
    _ ↔ gray s.wptr = gray (s.readView ^^^ 2 ^ s.cfg.qaw) :=
        (gray_inj (Config_ringSize_eq s.cfg ▸ hw)
          (Nat.xor_lt_two_pow hwidth (Nat.pow_lt_pow_succ one_lt_two))).symm
    _ ↔ gray s.wptr = s.rqSync ^^^ (2 ^ s.cfg.qaw + 2 ^ (s.cfg.qaw - 1)) := by
        rw [gray_xor, hview, hmask]

theorem State.consumerEmpty_eq_gray {s : State} (hr : s.rptr < s.cfg.ringSize) (hv : s.wqSync < s.cfg.ringSize) :
    s.consumerEmpty = s.consumerEmptyGray := by
  rw [Bool.eq_iff_iff, State.consumerEmpty, State.consumerEmptyGray, beq_iff_eq, beq_iff_eq]
  exact (gray_eq_iff_eq_view hr hv).symm

/-- Settles O30: the code is one to one on its width and linear, so that the half circle between full pointers becomes
the mask of R127. -/
theorem grayDomainTestsAgree : Obligations.GrayDomainTestsAgree := by
  unfold Obligations.GrayDomainTestsAgree
  intro s hq hw hr hwv hrv
  exact ⟨State.producerFull_eq_gray hq hw hrv, State.consumerEmpty_eq_gray hr hwv⟩

end Sys2Proof.Machine
end

section
/-! SUPPORT. The queue under stale views (40_byte_queue.md R130, R132), with the obligations on it. -/

namespace Sys2Proof.Machine

/-! ### The tests as occupancies -/

/-- Two points of the circle are the same where their difference is 0. -/
theorem ringSub_eq_zero_iff {m a b : Nat} (ha : a < m) (hb : b < m) : ringSub m a b = 0 ↔ a = b := by
  rw [ringSub_eq_iff ha hb (by omega), Nat.add_zero, Nat.mod_eq_of_lt hb]

namespace State.QueueInv

variable {s : State} (h : s.QueueInv)
include h

theorem producerEmpty_iff : s.producerEmpty = true ↔ s.producerOccupancy = 0 := by
  rw [producerEmpty, beq_iff_eq, producerOccupancy, ringSub_eq_zero_iff h.wptr_lt s.readView_lt]

theorem consumerEmpty_iff : s.consumerEmpty = true ↔ s.consumerOccupancy = 0 := by
  rw [consumerEmpty, beq_iff_eq, consumerOccupancy, ringSub_eq_zero_iff s.writeView_lt h.rptr_lt, eq_comm]

/-- In direct mode each port sees the pointer itself (R43, R121). -/
theorem occupancies_of_direct (hd : s.cfg.syncMode = .direct) :
    s.producerOccupancy = s.occupancy ∧ s.consumerOccupancy = s.occupancy := by
  obtain ⟨hwq, hrq⟩ := h.direct_exact hd
  have hread : s.readView = s.rptr := by rw [readView, hrq, bin_gray_pointer h.rptr_lt]
  have hwrite : s.writeView = s.wptr := by rw [writeView, hwq, bin_gray_pointer h.wptr_lt]
  rw [producerOccupancy, consumerOccupancy, hread, hwrite]
  exact ⟨rfl, rfl⟩

end State.QueueInv

/-! ### Obligations -/

/-- Settles O32: where the producer sees room the slot that is written is no unread byte's (`slotOf_unread_ne`), and
elsewhere nothing is stored (`appendFrame`). -/
theorem overwriteGuard : Obligations.OverwriteGuard := by
  unfold Obligations.OverwriteGuard
  intro d s t k h hx hk
  obtain ⟨hother, hfull, -⟩ := appendFrame d s t hx
  cases hf : s.producerFull with
  | true => exact (hfull hf).1 _
  | false => exact hother _ (h.queue.slotOf_unread_ne hf hk)

/-- Settles O33: R43 puts the three occupancies in order, and each test is one of an occupancy (`producerEmpty_iff`,
`consumerEmpty_iff`). -/
theorem viewsAreStaleOneWay : Obligations.ViewsAreStaleOneWay := by
  unfold Obligations.ViewsAreStaleOneWay
  intro s hi
  have h := hi.queue
  have hprod : s.occupancy ≤ s.producerOccupancy := by rw [h.readView_behind]; omega
  have hcons : s.consumerOccupancy ≤ s.occupancy := by rw [← h.writeView_between]; omega
  have hbyte : s.consumerEmpty = false → s.occupancy ≠ 0 := fun he => by
    have hseen := h.consumerEmpty_eq_false_iff.mp he
    omega
  have hnone : s.producerEmpty = true → s.occupancy = 0 := fun he => by
    have hseen := h.producerEmpty_iff.mp he
    omega
  refine ⟨hprod, h.occupancy_lt, hcons, hbyte, hnone, hbyte, fun hd => ?direct⟩
  obtain ⟨hp, hc⟩ := h.occupancies_of_direct hd
  exact ⟨hp, hc, hp ▸ h.producerEmpty_iff, hc ▸ h.consumerEmpty_iff⟩

end Sys2Proof.Machine
end

section
/-! SUPPORT. What each agent may write (40_byte_queue.md R135, 60_exceptions.md R237), with the obligation on it. -/

namespace Sys2Proof.Machine

/-! ### What a port's command writes -/

/-- A command that answers a next state did not enter its rule, or runs on a port that may issue it. -/
theorem exec_untouched_or_allowed {i : Instr} {s t : State} (h : exec i s = .next t) :
    Untouched s t ∨ s.port ∈ opcodePorts (fieldOp (encode i)) := by
  obtain ⟨body, hbody⟩ := exec_eq_accept i
  exact (accept_cases (hbody s ▸ h)).imp_right fun ⟨_, hp, _⟩ => hp

/-- The step of agent `a` from `s` to `t` writes only what `a` owns: each element that another agent owns is as
before (R135, R237). -/
structure WritesOwn (a : Agent) (s t : State) : Prop where
  producer : a ≠ .port .p → s.SameStorage t ∧ t.wptr = s.wptr ∧ t.respP = s.respP
  consumer : a ≠ .port .m → t.rptr = s.rptr ∧ s.SameChecksum t ∧ t.plane = s.plane ∧ t.respM = s.respM
  window : a ≠ .port .s → s.SameWindow t
  out : ¬ (a = .port .m ∨ a = .port .s) → t.out = s.out
  writeView : ¬ (s.cfg.syncMode = .gray ∧ a = .syncW ∨ s.cfg.syncMode = .direct ∧ a = .port .p) →
    t.wqSync = s.wqSync
  readView : ¬ (s.cfg.syncMode = .gray ∧ a = .syncR ∨ s.cfg.syncMode = .direct ∧ a = .port .m) →
    t.rqSync = s.rqSync
  latch : (¬ ∃ q, a = .port q) →
    t.faultCause = s.faultCause ∧ t.faultPort = s.faultPort ∧ t.faultWord = s.faultWord

theorem WritesOwn.refl (a : Agent) (s : State) : WritesOwn a s s := by
  constructor <;> simp [State.SameStorage, State.SameChecksum, State.SameWindow]

/-- A command that does not enter its rule writes at most the latch, which every port may. -/
theorem Untouched.writesOwn {s t : State} (h : Untouched s t) (q : Port) : WritesOwn (.port q) s t := by
  obtain ⟨c, p, w, rfl⟩ := h.eq_latch
  constructor <;> simp [State.SameStorage, State.SameChecksum, State.SameWindow]

/-- What a command of port P may write: the storage and `WPTR`, its publication in direct mode, port P's responses. -/
theorem WritesOwn.of_port_p {s t : State} (hptr : t.rptr = s.rptr) (hck : s.SameChecksum t) (hpl : t.plane = s.plane)
    (hresp : t.respM = s.respM) (hwin : s.SameWindow t) (hout : t.out = s.out)
    (hwq : s.cfg.syncMode = .gray → t.wqSync = s.wqSync) (hrq : t.rqSync = s.rqSync) :
    WritesOwn (.port .p) s t where
  producer := fun hne => absurd rfl hne
  consumer := fun _ => ⟨hptr, hck, hpl, hresp⟩
  window := fun _ => hwin
  out := fun _ => hout
  writeView := fun hno => by
    cases hm : s.cfg.syncMode with
    | gray => exact hwq hm
    | direct => exact absurd (.inr ⟨hm, rfl⟩) hno
  readView := fun _ => hrq
  latch := fun hno => absurd ⟨_, rfl⟩ hno

/-- What a command of port M may write: `RPTR`, its publication in direct mode, the checksum, the planes, `OUT` and
port M's responses. -/
theorem WritesOwn.of_port_m {s t : State} (hmem : s.SameStorage t) (hptr : t.wptr = s.wptr) (hresp : t.respP = s.respP)
    (hwin : s.SameWindow t) (hwq : t.wqSync = s.wqSync) (hrq : s.cfg.syncMode = .gray → t.rqSync = s.rqSync) :
    WritesOwn (.port .m) s t where
  producer := fun _ => ⟨hmem, hptr, hresp⟩
  consumer := fun hne => absurd rfl hne
  window := fun _ => hwin
  out := fun hno => absurd (.inl rfl) hno
  writeView := fun _ => hwq
  readView := fun hno => by
    cases hm : s.cfg.syncMode with
    | gray => exact hrq hm
    | direct => exact absurd (.inr ⟨hm, rfl⟩) hno
  latch := fun hno => absurd ⟨_, rfl⟩ hno

/-- `Q_IS_EMPTY` writes the responses of the port that asked. -/
theorem execQIsEmpty_writesOwn {s t : State} (h : execQIsEmpty s = .next t) : WritesOwn (.port s.port) s t := by
  obtain ⟨hmem, ⟨hwptr, hrptr, hwq, hrq⟩, hpl, hwin, -, -, hout, -, hck, -⟩ :=
    readAndChecksumFrame .qIsEmpty s t (.inl rfl) h
  obtain hu | ⟨-, hp | hp, ht⟩ := execQIsEmpty_cases h
  · exact hu.writesOwn s.port
  · have hresp : t.respM = s.respM := by
      rw [ht, State.respond_of_p hp, State.advance_respM, State.respondP_respM]
    exact hp ▸ WritesOwn.of_port_p hrptr (hck (.inl rfl)) hpl hresp hwin hout (fun _ => hwq) hrq
  · have hresp : t.respP = s.respP := by
      rw [ht, State.respond_of_m hp, State.advance_respP, State.respondM_respP]
    exact hp ▸ WritesOwn.of_port_m hmem hwptr hresp hwin hwq fun _ => hrq

/-- Every command writes only what its port owns, as its frame says. -/
theorem exec_writesOwn {i : Instr} {s t : State} (h : exec i s = .next t) : WritesOwn (.port s.port) s t := by
  obtain hu | hp := exec_untouched_or_allowed h
  · exact hu.writesOwn s.port
  cases i with
  | qAppend d =>
    have hp : s.port = .p := by simpa using hp
    obtain ⟨-, -, hptr, hrq, hwq, hck, hpl, hwin, -, -, hout, -, hresp, -⟩ := appendFrame d s t h
    exact hp ▸ WritesOwn.of_port_p hptr hck hpl hresp hwin hout hwq hrq
  | qPop =>
    have hp : s.port = .m := by simpa using hp
    obtain ⟨hmem, hptr, hwq, hrq, -, -, hwin, -, -, -, hresp, -⟩ := popFrame s t h
    exact hp ▸ WritesOwn.of_port_m hmem hptr hresp hwin hwq hrq
  | qIsEmpty => exact execQIsEmpty_writesOwn h
  | ckReset | ckUpdate | ckRead =>
    have hp : s.port = .m := by simpa using hp
    obtain ⟨hmem, ⟨hptr, -, hwq, hrq⟩, -, hwin, -, -, -, -, -, hresp, -⟩ := readAndChecksumFrame _ s t (by simp) h
    exact hp ▸ WritesOwn.of_port_m hmem hptr (hresp (by simp)) hwin hwq fun _ => hrq
  | tpSetDigit | tpSetDigitBcd | tpClear | tpFlush | tpInit | tpShowNoSignal =>
    have hp : s.port = .m := by simpa using hp
    obtain ⟨hmem, ⟨hptr, -, hwq, hrq⟩, -, hwin, -, -, hresp, -⟩ := transposerFrame _ s t (by simp) h
    exact hp ▸ WritesOwn.of_port_m hmem hptr hresp hwin hwq fun _ => hrq
  | maSample r =>
    have hp : s.port = .s := by simpa using hp
    obtain ⟨hmem, ⟨hwptr, hrptr, hwq, hrq⟩, hck, hpl, -, -, hrespP, hrespM, -⟩ :=
      sampleAndReservedFrame _ s t (by simp) h
    exact hp ▸ ⟨fun _ => ⟨hmem, hwptr, hrespP⟩, fun _ => ⟨hrptr, hck, hpl, hrespM⟩, fun hne => absurd rfl hne,
      fun hno => absurd (.inr rfl) hno, fun _ => hwq, fun _ => hrq, fun hno => absurd ⟨_, rfl⟩ hno⟩
  | reservedD x => exact (execReservedD_cases h).writesOwn s.port
  | reservedE x => exact (execReservedE_cases h).writesOwn s.port
  | reservedF x => exact (execReservedF_cases h).writesOwn s.port

theorem runWord_writesOwn {w : Word} {s t : State} (h : runWord w s = .next t) : WritesOwn (.port s.port) s t := by
  obtain hu | ⟨i, -, hi⟩ := runWord_cases h
  · exact hu.writesOwn s.port
  · exact exec_writesOwn hi

/-! ### What an agent's step writes -/

/-- In gray mode the consumer's view is `AG_SYNC_W`'s to write (R125). -/
theorem writesOwn_publishWrite {s : State} (hg : s.cfg.syncMode = .gray) : WritesOwn .syncW s (publishWrite s) := by
  obtain ⟨hp, hm, hs, ho, -, hrq, hl⟩ := WritesOwn.refl .syncW s
  exact ⟨hp, hm, hs, ho, fun hno => absurd (.inl ⟨hg, rfl⟩) hno, hrq, hl⟩

/-- In gray mode the producer's view is `AG_SYNC_R`'s to write (R126). -/
theorem writesOwn_publishRead {s : State} (hg : s.cfg.syncMode = .gray) : WritesOwn .syncR s (publishRead s) := by
  obtain ⟨hp, hm, hs, ho, hwq, -, hl⟩ := WritesOwn.refl .syncR s
  exact ⟨hp, hm, hs, ho, hwq, fun hno => absurd (.inl ⟨hg, rfl⟩) hno, hl⟩

/-- Every agent's step but a reset writes only what the agent owns. -/
theorem agentStep_writesOwn {a : Agent} {s t : State} (ha : a ≠ .reset) (h : agentStep a s = .next t) :
    WritesOwn a s t := by
  obtain ⟨-, ⟨hreset, -⟩ | ⟨-, rfl⟩ | ⟨rfl, -, hg, rfl⟩ | ⟨rfl, -, hg, rfl⟩ | ⟨q, w, rfl, -, -, hw⟩⟩ :=
    agentStep_cases h
  · exact absurd hreset ha
  · exact .refl a t
  · exact writesOwn_publishWrite hg
  · exact writesOwn_publishRead hg
  · obtain ⟨hp, hm, hs, ho, hwq, hrq, hl⟩ := runWord_writesOwn hw
    exact ⟨hp, hm, hs, ho, hwq, hrq, hl⟩

/-! ### Obligation -/

/-- Settles O22: what an agent does not own it leaves as before (`agentStep_writesOwn`), so that an element that changed
was its owner's to write. -/
theorem agentsWriteOnlyTheirOwn : Obligations.AgentsWriteOnlyTheirOwn := by
  unfold Obligations.AgentsWriteOnlyTheirOwn
  intro a s t h ha
  obtain ⟨hp, hm, hs, ho, hwq, hrq, hl⟩ := agentStep_writesOwn ha h
  simp only [ne_eq, ← not_and_or]
  exact ⟨not_imp_comm.mp hp, not_imp_comm.mp hm, not_imp_comm.mp hs, not_imp_comm.mp ho, not_imp_comm.mp hwq,
    not_imp_comm.mp hrq, not_imp_comm.mp hl⟩

end Sys2Proof.Machine
end

section
/-! SUPPORT. What the parameters decide: whether the block runs at all (00_scope.md R6), and the steps of the intensity
(43_moving_average.md R204), with the obligations on them. -/

namespace Sys2Proof.Machine

/-- Settles O16: the conditions are among those of `Config.legal`, without which no agent acts (`agentStep_of_illegal`)
and no command is accepted (`exec_eq_accept`). -/
theorem illegalParametersRefused : Obligations.IllegalParametersRefused := by
  unfold Obligations.IllegalParametersRefused
  intro s hbroken
  have hl : s.cfg.legal = false := by
    rw [Bool.eq_false_iff]
    intro hl
    obtain ⟨hq, -, hlen, hnd, hwin, -, hfit, hsum, -⟩ := (Config.legal_iff s.cfg).mp hl
    exact hbroken ⟨hq, hlen, hnd, ⟨_, hwin.symm⟩, hfit, hsum⟩
  refine ⟨agentStep_of_illegal (s := s.takeTurn) hl s.turn, fun i => ?_⟩
  obtain ⟨body, hbody⟩ := exec_eq_accept i
  rw [hbody, accept_of_illegal hl]

/-- Settles O55: an average from `64 n` to `64 n + 63` has the quotient `n`, which a byte holds. -/
theorem intensityHasSixteenSteps : Obligations.IntensityHasSixteenSteps := by
  unfold Obligations.IntensityHasSixteenSteps
  intro c sum n _ hidiv hn hlow hhigh
  have hquot : average c sum / 64 = n := by omega
  rw [intensity, hidiv, hquot, BitVec.toNat_ofNat, Nat.mod_eq_of_lt (by omega)]

end Sys2Proof.Machine
end
